-- ==== Sys2Proof/Word.lean ====
section
/-! DEFINITION. The two bit-vector types of ERC: the 32-bit bus and command word, and the byte. -/

namespace Sys2Proof

/-- A 32-bit word: what one bus access carries (R202) and the format of a command (R300). -/
abbrev Word := BitVec 32

/-- A byte, an integer in 0..255 (R11). -/
abbrev Byte := BitVec 8

end Sys2Proof
end

