-- ==== Sys2Proof/Config.lean ====
section
/-! DEFINITION. The parameters of R8 with the values this hardware takes (of P_DH, its default), and the one free value of the model. -/

namespace Sys2Proof.Config

/-- BUF_SIZE (R8, R110). -/
abbrev bufSize : Nat := 4096

/-- P25519 = 2^255 − 19 (R8, R500). -/
abbrev p25519 : Nat := 2 ^ 255 - 19

/-- A_CURVE (R8, R500). -/
abbrev aCurve : Nat := 486662

/-- X25519_BASE (R8, R500). -/
abbrev x25519Base : Nat := 9

/-- The default of the parameter P_DH (R600, R601): the RFC 3526 2048-bit MODP prime. A machine's own P_DH is
`State.pDh` (R132; assumption log 8). -/
abbrev pDh : Nat :=
  0xffffffffffffffffc90fdaa22168c234c4c6628b80dc1cd129024e088a67cc74020bbea63b139b22514a08798e3404ddef9519b3cd3a431b302b0a6df25f14374fe1356d6d51c245e485b576625e7ec6f44c42e9a637ed6b0bff5cb6f406b7edee386bfb5a899fa5ae9f24117c4b1fe649286651ece45b3dc2007cb8a163bf0598da48361c55d39a69163fa8fd24cf5f83655d23dca3ad961c62f356208552bb9ed529077096966d670c354e4abc9804f1746c08ca18217c32905e462e36ce3be39e772c180e86039b2783a2ec07a28fb5c55df06f4c52c9de2bcbf6955817183995497cea956ae515d2261898fa051015728e5a8aacaa68ffffffffffffffff

/-- The values the parameter P_DH may take: every odd 2048-bit number (R601). -/
def admitsPDh (m : Nat) : Bool := m % 2 == 1 && 2 ^ 2047 ≤ m && m < 2 ^ 2048

/-- G_DH (R8, R600). -/
abbrev gDh : Nat := 2

/-- DH_EXP_BITS (R8, R602). -/
abbrev dhExpBits : Nat := 256

/-- P1305 = 2^130 − 5 (R8, R700). -/
abbrev p1305 : Nat := 2 ^ 130 - 5

/-- R_MASK (R8, R700). -/
abbrev rMask : BitVec 128 := 0x0ffffffc0ffffffc0ffffffc0fffffff#128

/-- ID_VALUE (R8, R104): VENDOR_TAG 0x4552, BLOCK_TAG 0x43, REV 0x01. -/
abbrev idValue : Word := 0x45524301#32

/-- What a BUF byte that the memory list does not name reads as.
DESIGN CHOICE (assumption log 1): R1002 fixes no value; unsafe in `State.reset` only. -/
def unlistedByte : Byte := 0x00#8

/-- FREE VALUE (assumption log 5): the bytes a soft reset leaves in the destination of the command it aborts
(R1004: "each may hold its old value, a value of the result, or any other value").
It has no body that a proof can see; `State.freeCount` supplies a fresh argument each time. -/
opaque freeByte : Nat → Byte

end Sys2Proof.Config
end

