-- ==== Sys2Proof/Syntax.lean ====
section
/-! DEFINITION. The commands of ERC (one constructor per row of `spec/opcode_table.json`), the fields of a command
word, and the command line of R311. -/

namespace Sys2Proof

/-- The 16 commands (R304). Operands are not part of a command: they are the latched descriptors (R213).
The only field a command word carries is the pad flag of P_UPDATE (R302). -/
inductive Instr where
  | nop
  | xClamp
  | xPadd
  | xPdbl
  | xInv
  | xAffine
  | xLadder
  | xPub
  | xShared
  | dhModexp
  | dhPub
  | dhShared
  | pInit
  | pUpdate (pad : Bool)
  | pBlock
  | pTag
deriving DecidableEq, Repr

/-- The three fields of a command word (R300). -/
structure Fields where
  opc  : BitVec 8
  pad  : Bool
  rsvd : BitVec 23
deriving DecidableEq, Repr

/-- A source operand `addr:len` of a command line (R311). -/
structure SourceOperand where
  addr : Nat
  len  : Nat
deriving DecidableEq, Repr

/-- A command line (R311): the command (with its `.PAD` suffix inside `Instr.pUpdate`), the destination first when
the command has one, then the sources in the order SRC0, SRC1, SRC2. -/
structure CommandLine where
  instr   : Instr
  dst     : Option Nat
  sources : List SourceOperand
deriving DecidableEq, Repr

end Sys2Proof
end

