-- ==== Sys2Proof/Machine/Operands.lean ====
section
/-! DEFINITION. The operand forms of R305: which sources a command uses, the length contract of each, and the length of
its result. -/

namespace Sys2Proof.Machine

/-- A length contract of R305: "= k", "<= k" or "any length". -/
inductive Contract where
  | exactly (k : Nat)
  | atMost (k : Nat)
  | any
deriving DecidableEq, Repr

/-- The source length `len` meets the contract (R305). -/
def Contract.holds : Contract → Nat → Bool
  | .exactly k, len => len == k
  | .atMost k, len => len ≤ k
  | .any, _ => true

/-- The used sources of a command in the order SRC0, SRC1, SRC2, each with its contract (R305, `used(d)` of R902). -/
def usedSources : Instr → List (Fin 3 × Contract)
  | .nop => []
  | .xClamp => [(0, .exactly 32)]
  | .xPadd => [(0, .exactly 64), (1, .exactly 64), (2, .exactly 64)]
  | .xPdbl => [(0, .exactly 64)]
  | .xInv => [(0, .exactly 32)]
  | .xAffine => [(0, .exactly 64)]
  | .xLadder => [(0, .exactly 32), (1, .exactly 32)]
  | .xPub => [(0, .exactly 32)]
  | .xShared => [(0, .exactly 32), (1, .exactly 32)]
  | .dhModexp => [(0, .exactly 256), (1, .exactly 32)]
  | .dhPub => [(0, .exactly 32)]
  | .dhShared => [(0, .exactly 32), (1, .exactly 256)]
  | .pInit => [(0, .exactly 32)]
  | .pUpdate _ => [(0, .any)]
  | .pBlock => [(0, .atMost 16)]
  | .pTag => []

/-- The length in bytes of a command's result (R305, `outlen(d)` of R902). -/
def outlen : Instr → Nat
  | .nop => 0
  | .xClamp => 32
  | .xPadd => 64
  | .xPdbl => 64
  | .xInv => 32
  | .xAffine => 32
  | .xLadder => 64
  | .xPub => 32
  | .xShared => 32
  | .dhModexp => 256
  | .dhPub => 256
  | .dhShared => 256
  | .pInit => 0
  | .pUpdate _ => 0
  | .pBlock => 0
  | .pTag => 16

/-- P_UPDATE, P_BLOCK and P_TAG need a Poly1305 state in ACCUM (R706, R902). -/
def needsAccum : Instr → Bool
  | .pUpdate _ => true
  | .pBlock => true
  | .pTag => true
  | .nop => false
  | .xClamp => false
  | .xPadd => false
  | .xPdbl => false
  | .xInv => false
  | .xAffine => false
  | .xLadder => false
  | .xPub => false
  | .xShared => false
  | .dhModexp => false
  | .dhPub => false
  | .dhShared => false
  | .pInit => false

end Sys2Proof.Machine
end

