-- ==== Sys2Proof/Machine/Memory.lean ====
section
/-! DEFINITION. BUF as a canonical list of (address, byte) pairs, and its byte-string operations (R13, R110). -/

namespace Sys2Proof.Machine

/-- A memory: addresses strictly rising, no entry equal to what an unlisted address reads as. -/
abbrev Memory := List Host.Cell

/-- The byte at address `a`. -/
def Memory.read : Memory → Nat → Byte
  | [], _ => Config.unlistedByte
  | (b, v) :: m, a => if a = b then v else Memory.read m a

/-- `v` stored at address `a`, in canonical form. -/
def Memory.write : Memory → Nat → Byte → Memory
  | [], a, v => if v = Config.unlistedByte then [] else [(a, v)]
  | (b, w) :: m, a, v =>
    if a < b then (if v = Config.unlistedByte then (b, w) :: m else (a, v) :: (b, w) :: m)
    else if a = b then (if v = Config.unlistedByte then m else (a, v) :: m)
    else (b, w) :: Memory.write m a v

/-- `MemRead(a, n)` without its range condition: the `n` bytes from `a` up (R13). -/
def Memory.readBytes (m : Memory) : Nat → Nat → List Byte
  | _, 0 => []
  | a, n + 1 => m.read a :: Memory.readBytes m (a + 1) n

/-- `MemWrite(a, |v|, v)` without its range condition: the bytes of `v` stored from `a` up (R13). -/
def Memory.writeBytes : Memory → Nat → List Byte → Memory
  | m, _, [] => m
  | m, a, b :: bs => Memory.writeBytes (m.write a b) (a + 1) bs

/-- The addresses rise strictly, and all lie at or above `lo`. -/
def Memory.sortedFrom : Memory → Nat → Bool
  | [], _ => true
  | (b, _) :: m, lo => lo ≤ b && Memory.sortedFrom m (b + 1)

/-- The canonical form: addresses strictly rising, inside BUF, no entry equal to the unlisted byte. -/
def Memory.wf (m : Memory) : Bool :=
  m.sortedFrom 0 && m.all fun c => c.1 < Config.bufSize && c.2 != Config.unlistedByte

/-- The memory whose first bytes are those of `v`, cut to the size of BUF (BUF_INIT, R1002). -/
def Memory.ofBytes (v : List Byte) : Memory := Memory.writeBytes [] 0 (v.take Config.bufSize)

end Sys2Proof.Machine
end

