-- ==== Sys2Proof/Machine/State.lean ====
section
/-! DEFINITION. The state of ERC (R100, with R121 and R131), the turns of its environment (R800), the reasons a step can
stop, and the power-on state (R1001). -/

namespace Sys2Proof.Machine

/-- STATUS.ERRCODE: the error codes of R901; no other value occurs. -/
inductive ErrCode where
  | ok
  | illegalCmd
  | invalidLength
  | badRange
  | pNotInit
  | pFinalized
  | pSequence
  | zeroScalar
  | degenerate
deriving DecidableEq, Repr

/-- P.PSTATE (R122): IDLE, ACCUM, FINAL; the encoding 3 never occurs. -/
inductive PState where
  | idle
  | accum
  | final
deriving DecidableEq, Repr

/-- The Poly1305 state P (R121). -/
structure Poly where
  pstate : PState
  pupd   : Bool
  pr     : BitVec 128
  ps     : BitVec 128
  pacc   : Nat
  ptlen  : Fin 16
  ptail  : Vector Byte 15
deriving DecidableEq, Repr

/-- P with every field zero, in the life-cycle state `q` (R1001 for IDLE, R705 for FINAL). -/
def Poly.zero (q : PState) : Poly :=
  { pstate := q, pupd := false, pr := 0#128, ps := 0#128, pacc := 0, ptlen := 0, ptail := Vector.replicate 15 0#8 }

/-- A source descriptor pair SRCk_ADDR.ADDR, SRCk_LEN.LEN (R108). -/
structure Descriptor where
  addr : BitVec 12
  len  : BitVec 13
deriving DecidableEq, Repr

/-- LAT, the latched command record (R131). -/
structure Latch where
  word  : Word
  src   : Vector Descriptor 3
  dst   : BitVec 12
  degen : Bool
deriving DecidableEq, Repr

/-- One turn of the block's environment and engine (R800). `off` is a 13-bit block-relative offset (R200). -/
inductive Turn where
  /-- A host read at `off`. -/
  | read (off : BitVec 13)
  /-- A host write of `data` with byte strobes `strb` at `off` (R202). -/
  | write (off : BitVec 13) (data : Word) (strb : BitVec 4)
  /-- The command engine moves: the completion step, if a command is in flight (R802). -/
  | engine
  /-- Power is applied or the reset input asserted (R1000); `init` is what BUF then holds (BUF_INIT, R1002). -/
  | powerOn (init : List Byte)
deriving DecidableEq, Repr

/-- The state of the block (R100); below it the parameter P_DH, and three fields of the model's own. -/
structure State where
  degenChk  : Bool                 -- CTRL.DEGEN_CHK (R105)
  irqEn     : Bool                 -- CTRL.IRQ_EN (R105)
  busy      : Bool                 -- STATUS.BUSY (R106)
  done      : Bool                 -- STATUS.DONE
  cmdOvr    : Bool                 -- STATUS.CMD_OVR
  bufConf   : Bool                 -- STATUS.BUF_CONF
  errcode   : ErrCode              -- STATUS.ERRCODE
  lastop    : BitVec 8             -- STATUS.LASTOP
  cmd       : Word                 -- CMD (R107)
  src       : Vector Descriptor 3  -- SRCk_ADDR, SRCk_LEN (R108)
  dst       : BitVec 12            -- DST_ADDR (R109)
  buf       : Memory               -- BUF (R110)
  poly      : Poly                 -- P (R120, R121)
  lat       : Latch                -- LAT (R131)
  pDh       : Nat                  -- the parameter P_DH (R132, R601), wired: no step writes it (assumption log 8)
  turns     : List Turn            -- the model's own: the interleaving still to come (assumption log 2)
  rdata     : Option Word          -- the model's own: what the latest host read returned (assumption log 4)
  freeCount : Nat                  -- the model's own: free bytes drawn so far (assumption log 5)
deriving DecidableEq, Repr

/-- Why a step stops. The spec gives the block no trap (R900): errors of a command are ERRCODE values, not faults. -/
inductive Fault where
  /-- Raised by `memRead` and `memWrite` outside BUF, where R13 does not define them. Safe: the checks of R902 precede every
  such access, so no step raises it. -/
  | bufOutOfRange
deriving DecidableEq, Repr

/-- Why a step has no meaning. -/
inductive Refusal where
  /-- Raised by an arm of `exec` for a command without a meaning; no arm does. Safe. -/
  | notModelled (mnemonic : String)
deriving DecidableEq, Repr

/-- A descriptor pair at reset (R1001). -/
def Descriptor.zero : Descriptor := { addr := 0#12, len := 0#13 }

/-- LAT with no command in flight. R131: "LAT has no reset value"; DESIGN CHOICE zeros (assumption log 6). -/
def Latch.none : Latch :=
  { word := 0x00000000#32, src := Vector.replicate 3 Descriptor.zero, dst := 0#12, degen := false }

/-- The power-on column of R1001 of the machine with the parameters P_DH = `pDh` and BUF_INIT = `init` (R132, R1002). -/
def State.powerOn (pDh : Nat) (init : List Byte) : State :=
  { degenChk := false, irqEn := false
    busy := false, done := false, cmdOvr := false, bufConf := false, errcode := .ok, lastop := 0x00#8
    cmd := 0x00000000#32
    src := Vector.replicate 3 Descriptor.zero, dst := 0#12
    buf := Memory.ofBytes init
    poly := Poly.zero .idle
    lat := Latch.none
    pDh := pDh
    turns := [], rdata := none, freeCount := 0 }

/-- The machine with the default P_DH right after power-on, before the host's first access (R1000, R1001, R601). BUF is
unspecified (R1002): DESIGN CHOICE every byte reads as `Config.unlistedByte` (assumption log 1). -/
def State.reset : State := State.powerOn Config.pDh []

end Sys2Proof.Machine
end

