-- ==== Sys2Proof/Machine/Flags.lean ====
section
/-! DEFINITION. The STATUS side of a command: error codes, the checks with their priority (R901-R903), the STATUS and CTRL
words as read, and the interrupt line (R105, R106, R912). -/

namespace Sys2Proof.Machine

/-- The 8-bit value of an error code (R901). -/
def ErrCode.code : ErrCode → BitVec 8
  | .ok => 0x00#8
  | .illegalCmd => 0x01#8
  | .invalidLength => 0x02#8
  | .badRange => 0x03#8
  | .pNotInit => 0x04#8
  | .pFinalized => 0x05#8
  | .pSequence => 0x06#8
  | .zeroScalar => 0x07#8
  | .degenerate => 0x08#8

/-- The encoding of PSTATE (R122). -/
def PState.code : PState → BitVec 2
  | .idle => 0#2
  | .accum => 1#2
  | .final => 2#2

/-- Every used source length meets its contract (R305). -/
def lengthsOk (i : Instr) (l : Latch) : Bool :=
  (usedSources i).all fun kc => kc.2.holds (l.src[kc.1]).len.toNat

/-- Every used source lies inside BUF: `addr + len <= 4096`, exact (R214). -/
def sourcesInRange (i : Instr) (l : Latch) : Bool :=
  (usedSources i).all fun kc => (l.src[kc.1]).addr.toNat + (l.src[kc.1]).len.toNat ≤ Config.bufSize

/-- The destination, if the command has a result, lies inside BUF (R214, R307). -/
def dstInRange (i : Instr) (l : Latch) : Bool := outlen i == 0 || l.dst.toNat + outlen i ≤ Config.bufSize

/-- `check(LAT, P)` of R902 for a legal command; the order of the tests is the priority of R903. -/
def check (i : Instr) (l : Latch) (p : Poly) : ErrCode :=
  if !lengthsOk i l then .invalidLength
  else if !sourcesInRange i l then .badRange
  else if !dstInRange i l then .badRange
  else if needsAccum i && p.pstate == .idle then .pNotInit
  else if needsAccum i && p.pstate == .final then .pFinalized
  else if i == .pBlock && p.pupd then .pSequence
  else .ok

/-- STATUS as a host reads it (R106). -/
def State.statusWord (s : State) : Word :=
  s.lastop ++ 0#5 ++ BitVec.ofBool s.poly.pupd ++ s.poly.pstate.code ++ s.errcode.code ++ 0#4
    ++ BitVec.ofBool s.bufConf ++ BitVec.ofBool s.cmdOvr ++ BitVec.ofBool s.done ++ BitVec.ofBool s.busy

/-- CTRL as a host reads it: SRST and the reserved bits read 0 (R105). -/
def State.ctrlWord (s : State) : Word := 0#30 ++ BitVec.ofBool s.irqEn ++ BitVec.ofBool s.degenChk

/-- The interrupt line `irq = CTRL.IRQ_EN & STATUS.DONE` (R912). -/
def State.irq (s : State) : Bool := s.irqEn && s.done

end Sys2Proof.Machine
end

