-- ==== Sys2Proof/Machine/Ops.lean ====
section
/-! DEFINITION. The shared operations of the command life cycle: MemRead and MemWrite (R13), issue (R801), completion with a
code (R802, R904), and running one command: check, fetch, operate, write back (R802, R806, R406, R407). -/

namespace Sys2Proof.Machine

/-- `MemRead(a, n)`, defined only when `a + n <= BUF_SIZE` (R13). -/
def memRead (m : Memory) (a n : Nat) : Except Fault (List Byte) :=
  if a + n ≤ Config.bufSize then .ok (m.readBytes a n) else .error .bufOutOfRange

/-- `MemWrite(a, |v|, v)`, defined only when `a + |v| <= BUF_SIZE` (R13). -/
def memWrite (m : Memory) (a : Nat) (v : List Byte) : Except Fault Memory :=
  if a + v.length ≤ Config.bufSize then .ok (m.writeBytes a v) else .error .bufOutOfRange

/-- Issue of the command word `w` (R801). -/
def State.issue (w : Word) (s : State) : State :=
  { s with
    cmd := w
    lat := { word := w, src := s.src, dst := s.dst, degen := s.degenChk }
    busy := true, done := false, errcode := .ok }

/-- The common completion effects with code `e` (R802): with `e ≠ 0` this is the whole of an error completion (R904), the
block's one way to report an error (R900, R908). -/
def State.completeWith (e : ErrCode) (s : State) : State :=
  { s with errcode := e, lastop := s.lat.word.extractLsb' 0 8, busy := false, done := true }

/-- What an operation reads: its source strings (R406), the latched DEGEN_CHK and P (R807). -/
structure Inputs where
  src   : Vector (List Byte) 3
  degen : Bool
  poly  : Poly
deriving DecidableEq, Repr

/-- What an operation writes: the result bytes at DST_ADDR and P (R407). -/
structure Effect where
  out  : List Byte
  poly : Poly
deriving DecidableEq, Repr

/-- The effect of a command that writes `v` at DST_ADDR and leaves P. -/
def Inputs.write (inp : Inputs) (v : List Byte) : Effect := { out := v, poly := inp.poly }

/-- The effect of a command that writes no BUF byte and leaves `p` in P (outlen 0). -/
def Inputs.setPoly (_ : Inputs) (p : Poly) : Effect := { out := [], poly := p }

/-- Source k of the command in flight: `MemRead(LAT.src[k].addr, LAT.src[k].len)` (R213, R406); a source the command does
not use is not read (R307). -/
def fetchSource (i : Instr) (s : State) (k : Fin 3) : Except Fault (List Byte) :=
  if (usedSources i).any (·.1 == k) then memRead s.buf (s.lat.src[k]).addr.toNat (s.lat.src[k]).len.toNat
  else .ok []

/-- All inputs of the command in flight, read before anything is written (R806). -/
def fetch (i : Instr) (s : State) : Except Fault Inputs :=
  match fetchSource i s 0, fetchSource i s 1, fetchSource i s 2 with
  | .ok b0, .ok b1, .ok b2 => .ok { src := #v[b0, b1, b2], degen := s.lat.degen, poly := s.poly }
  | .error f, _, _ => .error f
  | _, .error f, _ => .error f
  | _, _, .error f => .error f

/-- The completion of a legal command `i` with operation `op` (R802): `check`, then the operation on the fetched inputs, then
the write-back (R407). A value check inside the operation (ZERO_SCALAR, DEGENERATE) aborts before any write. -/
def runCommand (i : Instr) (op : Inputs → Except ErrCode Effect) (s : State) : Host.Outcome State Fault Refusal :=
  if check i s.lat s.poly = .ok then
    match fetch i s with
    | .error f => .fault f
    | .ok inp =>
      match op inp with
      | .error e => .next (s.completeWith e)
      | .ok eff =>
        match memWrite s.buf s.lat.dst.toNat eff.out with
        | .error f => .fault f
        | .ok m => .next (State.completeWith .ok { s with buf := m, poly := eff.poly })
  else .next (s.completeWith (check i s.lat s.poly))

end Sys2Proof.Machine
end

