-- ==== Sys2Proof/Machine/Control.lean ====
section
/-! DEFINITION. The control family: NOP (R805). -/

namespace Sys2Proof.Machine

/-- NOP changes no BUF byte and no P field; the common completion effects remain (R805). -/
def opNop (inp : Inputs) : Except ErrCode Effect := .ok (inp.write [])

/-- NOP (R805). -/
def execNop (s : State) : Host.Outcome State Fault Refusal := runCommand .nop opNop s

end Sys2Proof.Machine
end

