-- ==== Sys2Proof/Machine/Codec.lean ====
section
/-! DEFINITION. The codec: little-endian conversion between byte strings and integers (R400-R405). -/

namespace Sys2Proof.Machine

/-- `unpack_w(b)` with `w = |b|`: the sum of `b[i] · 2^(8i)` (R401). -/
def unpack : List Byte → Nat
  | [] => 0
  | b :: bs => b.toNat + 2 ^ 8 * unpack bs

/-- `pack_w(n)`: byte `i` is `(n >> 8i) & 255`, higher bits dropped (R402). -/
def pack : Nat → Nat → List Byte
  | 0, _ => []
  | w + 1, n => BitVec.ofNat 8 n :: pack w (n / 2 ^ 8)

/-- A projective pair (X, Z) (R405, R16). -/
structure Pair where
  x : Nat
  z : Nat
deriving DecidableEq, Repr

/-- The pair a 64-byte source decodes to: X in bytes 0-31, Z in bytes 32-63, no reduction (R405). -/
def unpackPair (b : List Byte) : Pair := { x := unpack (b.take 32), z := unpack (b.drop 32) }

/-- `pack_32(X) ‖ pack_32(Z)` (R405). -/
def packPair (q : Pair) : List Byte := pack 32 q.x ++ pack 32 q.z

end Sys2Proof.Machine
end

