-- ==== Sys2Proof/Machine/Field.lean ====
section
/-! DEFINITION. The arithmetic of the commands: modular power by square-and-multiply (R506, R602), the point formulas,
affine conversion, clamping and the ladder (R502-R508). All values are exact integers (R10). -/

namespace Sys2Proof.Machine

/-- The loop of R602 over the `k` lowest bits of `e`, least significant first: multiply `acc` by `x` where the bit is set,
always square `x`, each step reduced mod `m`. -/
def powLoop (m : Nat) : Nat → Nat → Nat → Nat → Nat
  | 0, _, _, acc => acc
  | k + 1, x, e, acc => powLoop m k (x * x % m) (e / 2) (if e % 2 = 1 then acc * x % m else acc)

/-- `modexp(b, e)` of R602 for the modulus `m`: reduce the base first, accumulator 1, 256 iterations. -/
def modexp (m b e : Nat) : Nat := powLoop m Config.dhExpBits (b % m) e 1

/-- `finv(z) = z^(p − 2) mod p` "via square-and-multiply" (R506); p − 2 has 255 bits. -/
def finv (z : Nat) : Nat := powLoop Config.p25519 255 (z % Config.p25519) (Config.p25519 - 2) 1

/-- `affine(X, Z) = X · finv(Z) mod p` (R507). -/
def affine (q : Pair) : Nat := q.x * finv q.z % Config.p25519

/-- The residue of an integer mod p, also for a negative one (R10). -/
def modP (v : Int) : Nat := (v % (Config.p25519 : Int)).toNat

/-- `padd(n, m, d)`: differential addition (R504). -/
def padd (n m d : Pair) : Pair :=
  { x := modP (4 * ((m.x : Int) * n.x - (m.z : Int) * n.z) ^ 2 * d.z)
    z := modP (4 * ((m.x : Int) * n.z - (m.z : Int) * n.x) ^ 2 * d.x) }

/-- `pdbl(n)`: doubling (R505). -/
def pdbl (n : Pair) : Pair :=
  { x := modP (((n.x : Int) ^ 2 - (n.z : Int) ^ 2) ^ 2)
    z := modP (4 * (n.x : Int) * n.z * ((n.x : Int) ^ 2 + (Config.aCurve : Int) * n.x * n.z + (n.z : Int) ^ 2)) }

/-- `one` of R508: the base reduced mod p, with Z = 1. -/
def ladderBase (u : Nat) : Pair := { x := u % Config.p25519, z := 1 }

/-- One level of the recursion of R508: from the pair for `m div 2` to the pair for `m`. -/
def ladderStep (one : Pair) (odd : Bool) (ab : Pair × Pair) : Pair × Pair :=
  if odd then (padd ab.1 ab.2 one, pdbl ab.2) else (pdbl ab.1, padd ab.1 ab.2 one)

/-- `f(m)` of R508, the pair of the m-th and (m+1)-th multiple; the first argument bounds the depth of the recursion, and
a depth of at least the bit length of `m` gives the value of R508 (assumption log 17). -/
def ladderPair (u : Nat) : Nat → Nat → Pair × Pair
  | 0, _ => (ladderBase u, pdbl (ladderBase u))
  | k + 1, m =>
    if m ≤ 1 then (ladderBase u, pdbl (ladderBase u))
    else ladderStep (ladderBase u) (m % 2 = 1) (ladderPair u k (m / 2))

/-- `ladder(n, u)` for `1 <= n < 2^256` (R508). -/
def ladder (n u : Nat) : Pair := (ladderPair u 256 n).1

/-- `clamp(n)`: clear the low 3 bits and bit 255, set bit 254 (R502). -/
def clamp (n : Nat) : Nat := (n &&& (2 ^ 256 - 1 - 7 - 2 ^ 255)) ||| 2 ^ 254

/-- `clamp_bytes(b)`: byte 0 & 0xF8, byte 31 & 0x7F | 0x40 (R503). -/
def clampBytes (b : List Byte) : List Byte :=
  (b.modify 0 (· &&& 0xF8#8)).modify 31 fun x => (x &&& 0x7F#8) ||| 0x40#8

/-- The peer values DH_SHARED refuses when the degenerate check is on: 0, 1 and `m − 1` after reduction (R606). -/
def dhDegenerate (m y : Nat) : Bool := y % m == 0 || y % m == 1 || y % m == m - 1

end Sys2Proof.Machine
end

