-- ==== Sys2Proof/Machine/Curve.lean ====
section
/-! DEFINITION. The curve family: X_CLAMP, X_PADD, X_PDBL, X_INV, X_AFFINE, X_LADDER, X_PUB, X_SHARED (R510-R518). -/

namespace Sys2Proof.Machine

/-- Clamp raw scalar bytes (R510). -/
def opXClamp (inp : Inputs) : Except ErrCode Effect := .ok (inp.write (clampBytes inp.src[0]))

/-- Differential addition of SRC0 and SRC1 with difference SRC2 (R511). -/
def opXPadd (inp : Inputs) : Except ErrCode Effect :=
  .ok (inp.write (packPair (padd (unpackPair inp.src[0]) (unpackPair inp.src[1]) (unpackPair inp.src[2]))))

/-- Doubling (R512). -/
def opXPdbl (inp : Inputs) : Except ErrCode Effect := .ok (inp.write (packPair (pdbl (unpackPair inp.src[0]))))

/-- Modular inverse by Fermat exponentiation (R513). -/
def opXInv (inp : Inputs) : Except ErrCode Effect := .ok (inp.write (pack 32 (finv (unpack inp.src[0]))))

/-- Projective to affine (R514). -/
def opXAffine (inp : Inputs) : Except ErrCode Effect := .ok (inp.write (pack 32 (affine (unpackPair inp.src[0]))))

/-- The ladder on the scalar SRC0 as given (not clamped) and the base SRC1; scalar 0 is ZERO_SCALAR (R515). -/
def opXLadder (inp : Inputs) : Except ErrCode Effect :=
  if unpack inp.src[0] = 0 then .error .zeroScalar
  else .ok (inp.write (packPair (ladder (unpack inp.src[0]) (unpack inp.src[1]))))

/-- The public value of the clamped scalar SRC0 (R516). -/
def opXPub (inp : Inputs) : Except ErrCode Effect :=
  .ok (inp.write (pack 32 (affine (ladder (clamp (unpack inp.src[0])) Config.x25519Base))))

/-- The shared secret of the clamped scalar SRC0 and the peer SRC1; a zero result is DEGENERATE when LAT.degen = 1
(R517, R518). -/
def opXShared (inp : Inputs) : Except ErrCode Effect :=
  let v := affine (ladder (clamp (unpack inp.src[0])) (unpack inp.src[1]))
  if inp.degen = true ∧ v = 0 then .error .degenerate else .ok (inp.write (pack 32 v))

/-- X_CLAMP (R510). -/
def execXClamp (s : State) : Host.Outcome State Fault Refusal := runCommand .xClamp opXClamp s

/-- X_PADD (R511). -/
def execXPadd (s : State) : Host.Outcome State Fault Refusal := runCommand .xPadd opXPadd s

/-- X_PDBL (R512). -/
def execXPdbl (s : State) : Host.Outcome State Fault Refusal := runCommand .xPdbl opXPdbl s

/-- X_INV (R513). -/
def execXInv (s : State) : Host.Outcome State Fault Refusal := runCommand .xInv opXInv s

/-- X_AFFINE (R514). -/
def execXAffine (s : State) : Host.Outcome State Fault Refusal := runCommand .xAffine opXAffine s

/-- X_LADDER (R515). -/
def execXLadder (s : State) : Host.Outcome State Fault Refusal := runCommand .xLadder opXLadder s

/-- X_PUB (R516). -/
def execXPub (s : State) : Host.Outcome State Fault Refusal := runCommand .xPub opXPub s

/-- X_SHARED (R517). -/
def execXShared (s : State) : Host.Outcome State Fault Refusal := runCommand .xShared opXShared s

end Sys2Proof.Machine
end

