-- ==== Sys2Proof/Machine/Dh.lean ====
section
/-! DEFINITION. The dh family: DH_MODEXP, DH_PUB, DH_SHARED (R603-R606). Each operation takes the modulus as its first
argument; the meanings give it the machine's parameter P_DH, `State.pDh` (R132, R601). -/

namespace Sys2Proof.Machine

/-- `b^e mod P_DH` of the base SRC0 and the exponent SRC1 (R603). -/
def opDhModexp (m : Nat) (inp : Inputs) : Except ErrCode Effect :=
  .ok (inp.write (pack 256 (modexp m (unpack inp.src[0]) (unpack inp.src[1]))))

/-- The public value `2^e mod P_DH` of the exponent SRC0 (R604). -/
def opDhPub (m : Nat) (inp : Inputs) : Except ErrCode Effect :=
  .ok (inp.write (pack 256 (modexp m Config.gDh (unpack inp.src[0]))))

/-- The shared secret `y^e mod P_DH` of the exponent SRC0 and the peer SRC1; a degenerate peer is refused when
LAT.degen = 1 (R605, R606). -/
def opDhShared (m : Nat) (inp : Inputs) : Except ErrCode Effect :=
  let y := unpack inp.src[1]
  if inp.degen = true ∧ dhDegenerate m y = true then .error .degenerate
  else .ok (inp.write (pack 256 (modexp m y (unpack inp.src[0]))))

/-- DH_MODEXP (R603). -/
def execDhModexp (s : State) : Host.Outcome State Fault Refusal := runCommand .dhModexp (opDhModexp s.pDh) s

/-- DH_PUB (R604). -/
def execDhPub (s : State) : Host.Outcome State Fault Refusal := runCommand .dhPub (opDhPub s.pDh) s

/-- DH_SHARED (R605). -/
def execDhShared (s : State) : Host.Outcome State Fault Refusal := runCommand .dhShared (opDhShared s.pDh) s

end Sys2Proof.Machine
end

