-- ==== Sys2Proof/Machine/Accumulator.lean ====
section
/-! DEFINITION. The Poly1305 accumulator: loading a key, absorbing a chunk, streaming bytes, the tag (R700-R705). -/

namespace Sys2Proof.Machine

/-- The integer of a chunk with its extra bit at position `8·|c|` (R701). -/
def chunkNumber (c : List Byte) : Nat := unpack c + 2 ^ (8 * c.length)

/-- `absorb(c)` (R701). -/
def Poly.absorb (p : Poly) (c : List Byte) : Poly :=
  { p with pacc := (p.pacc + chunkNumber c) * p.pr.toNat % Config.p1305 }

/-- PTAIL[0..PTLEN−1]: the buffered bytes (R121). -/
def Poly.tailBytes (p : Poly) : List Byte := p.ptail.toList.take p.ptlen

/-- The state P_INIT leaves for the 32-byte key `k` (R702). -/
def Poly.load (k : List Byte) : Poly :=
  { Poly.zero .accum with
    pr := BitVec.ofNat 128 (unpack (k.take 16)) &&& Config.rMask
    ps := BitVec.ofNat 128 (unpack (k.drop 16)) }

/-- One byte of the loop of R703: it completes a 16-byte block, which is absorbed, or it is buffered. -/
def Poly.feed (p : Poly) (x : Byte) : Poly :=
  if h : p.ptlen.val = 15 then
    { p.absorb (p.ptail.toList ++ [x]) with ptail := Vector.replicate 15 0#8, ptlen := 0 }
  else
    { p with
      ptail := p.ptail.set p.ptlen.val x (by have := p.ptlen.isLt; omega)
      ptlen := ⟨p.ptlen.val + 1, by have := p.ptlen.isLt; omega⟩ }

/-- The segment P_UPDATE adds for the data `d`: with padding, zeros up to a multiple of 16 bytes (R703). -/
def paddedSegment (pad : Bool) (d : List Byte) : List Byte :=
  d ++ (if pad then List.replicate ((16 - d.length % 16) % 16) 0#8 else [])

/-- P after the whole segment `seg` (R703): PUPD set if it holds a byte, then each byte in order. -/
def Poly.update (p : Poly) (seg : List Byte) : Poly :=
  seg.foldl Poly.feed { p with pupd := p.pupd || !seg.isEmpty }

/-- P after the buffered bytes, if any, have been absorbed (first line of R705). -/
def Poly.flush (p : Poly) : Poly := if p.ptlen.val = 0 then p else p.absorb p.tailBytes

/-- `T = (PACC + PS) mod 2^128` after the flush (R705). -/
def Poly.tag (p : Poly) : Nat := (p.flush.pacc + p.ps.toNat) % 2 ^ 128

end Sys2Proof.Machine
end

