-- ==== Sys2Proof/Machine/Poly1305.lean ====
section
/-! DEFINITION. The poly1305 family: P_INIT, P_UPDATE, P_BLOCK, P_TAG (R702-R706). The checks P_NOT_INIT, P_FINALIZED and
P_SEQUENCE are part of `check` (R902). -/

namespace Sys2Proof.Machine

/-- Load the one-time key SRC0 over whatever P held (R702). -/
def opPInit (inp : Inputs) : Except ErrCode Effect := .ok (inp.setPoly (Poly.load inp.src[0]))

/-- Stream the bytes of SRC0, padded if `pad`, into P (R703). -/
def opPUpdate (pad : Bool) (inp : Inputs) : Except ErrCode Effect :=
  .ok (inp.setPoly (inp.poly.update (paddedSegment pad inp.src[0])))

/-- Absorb the chunk SRC0 at once; PTAIL, PTLEN and PUPD stay (R704). -/
def opPBlock (inp : Inputs) : Except ErrCode Effect := .ok (inp.setPoly (inp.poly.absorb inp.src[0]))

/-- Write the tag and leave P in FINAL with every field zero (R705). -/
def opPTag (inp : Inputs) : Except ErrCode Effect :=
  .ok { out := pack 16 inp.poly.tag, poly := Poly.zero .final }

/-- P_INIT (R702). -/
def execPInit (s : State) : Host.Outcome State Fault Refusal := runCommand .pInit opPInit s

/-- P_UPDATE, with `pad = LAT.word[8]` as decoded (R703). -/
def execPUpdate (pad : Bool) (s : State) : Host.Outcome State Fault Refusal :=
  runCommand (.pUpdate pad) (opPUpdate pad) s

/-- P_BLOCK (R704). -/
def execPBlock (s : State) : Host.Outcome State Fault Refusal := runCommand .pBlock opPBlock s

/-- P_TAG (R705). -/
def execPTag (s : State) : Host.Outcome State Fault Refusal := runCommand .pTag opPTag s

end Sys2Proof.Machine
end

