-- ==== Sys2Proof/Machine/Dispatch.lean ====
section
/-! DEFINITION. The meaning of every command: its completion step (R802, R804). -/

namespace Sys2Proof.Machine

/-- The completion of the command `i` in the state `s` (R802); `execute` dispatches on the operation (R804). -/
def exec (i : Instr) (s : State) : Host.Outcome State Fault Refusal :=
  match i with
  | .nop => Sys2Proof.Machine.execNop s
  | .xClamp => Sys2Proof.Machine.execXClamp s
  | .xPadd => Sys2Proof.Machine.execXPadd s
  | .xPdbl => Sys2Proof.Machine.execXPdbl s
  | .xInv => Sys2Proof.Machine.execXInv s
  | .xAffine => Sys2Proof.Machine.execXAffine s
  | .xLadder => Sys2Proof.Machine.execXLadder s
  | .xPub => Sys2Proof.Machine.execXPub s
  | .xShared => Sys2Proof.Machine.execXShared s
  | .dhModexp => Sys2Proof.Machine.execDhModexp s
  | .dhPub => Sys2Proof.Machine.execDhPub s
  | .dhShared => Sys2Proof.Machine.execDhShared s
  | .pInit => Sys2Proof.Machine.execPInit s
  | .pUpdate pad => Sys2Proof.Machine.execPUpdate pad s
  | .pBlock => Sys2Proof.Machine.execPBlock s
  | .pTag => Sys2Proof.Machine.execPTag s

end Sys2Proof.Machine
end

