-- ==== Sys2Proof/WellFormed.lean ====
section
/-! DEFINITION. Well-formedness: of the fields of a command word (the negation of R308's "illegal"), of a command and of a
command line (R311, R108, R109). -/

namespace Sys2Proof

/-- The assigned operation codes of R304: every value R308 does not list as unassigned. -/
def Fields.assigned (f : Fields) : Bool :=
  f.opc == 0x00#8 || (0x10#8 ≤ f.opc && f.opc ≤ 0x17#8) || (0x20#8 ≤ f.opc && f.opc ≤ 0x22#8)
    || (0x30#8 ≤ f.opc && f.opc ≤ 0x33#8)

/-- RSVD must be 0 (R303). -/
def Fields.rsvdOk (f : Fields) : Bool := f.rsvd == 0#23

/-- PAD may be 1 for P_UPDATE only (R302). -/
def Fields.padOk (f : Fields) : Bool := !f.pad || f.opc == 0x31#8

/-- The fields form a legal command word (R308). -/
def Fields.wf (f : Fields) : Bool := f.assigned && f.rsvdOk && f.padOk

/-- Every term of `Instr` is well formed: the only field is the pad flag of P_UPDATE, and both its values are legal (R302). -/
def Instr.wf (_ : Instr) : Bool := true

/-- A destination stands on the line exactly when the command has a result (R311). -/
def CommandLine.dstPresent (c : CommandLine) : Bool := c.dst.isSome == (0 < Machine.outlen c.instr)

/-- The destination fits DST_ADDR.ADDR, 12 bits (R109). -/
def CommandLine.dstFits (c : CommandLine) : Bool := c.dst.all (· < 4096)

/-- The line names each used source, and no other (R311). -/
def CommandLine.sourcesPresent (c : CommandLine) : Bool :=
  c.sources.length == (Machine.usedSources c.instr).length

/-- Each source fits SRCk_ADDR.ADDR, 12 bits, and SRCk_LEN.LEN, 13 bits (R108). -/
def CommandLine.sourcesFit (c : CommandLine) : Bool := c.sources.all fun o => o.addr < 4096 && o.len < 8192

/-- The command line can be written to the descriptor registers as it stands (R311, R313).
Whether the lengths meet the command's contract is checked by the block, not here (R902). -/
def CommandLine.wf (c : CommandLine) : Bool :=
  c.instr.wf && c.dstPresent && c.dstFits && c.sourcesPresent && c.sourcesFit

end Sys2Proof
end

