-- ==== Sys2Proof/Decode.lean ====
section
/-! DEFINITION. Decoding of command words (R300-R309), total, rejecting by name; then the encoder, written from the same
table of R304. -/

namespace Sys2Proof

/-- Why a command word is not a command (R308), or why bytes are not one command word (R310). -/
inductive DecodeError where
  /-- RSVD ≠ 0 (R303). -/
  | reservedBits
  /-- OPC is not in the table of R304. -/
  | unassignedOpcode
  /-- PAD = 1 and the command is not P_UPDATE (R302). -/
  | padNotAllowed
  /-- The bytes are not exactly the four of one command word (R300, R310). -/
  | notOneWord
deriving DecidableEq, Repr

/-- The fields of a command word (R300-R303). -/
def fieldsOf (w : Word) : Fields :=
  { opc := w.extractLsb' 0 8, pad := w.getLsbD 8, rsvd := w.extractLsb' 9 23 }

/-- The command word with the given fields (R300). -/
def wordOf (f : Fields) : Word := f.rsvd ++ BitVec.ofBool f.pad ++ f.opc

/-- The opcode map of R304; the pad flag matters for P_UPDATE only. -/
def commandOfOpcode (opc : BitVec 8) (pad : Bool) : Option Instr :=
  match opc.toNat with
  | 0x00 => some .nop
  | 0x10 => some .xClamp
  | 0x11 => some .xPadd
  | 0x12 => some .xPdbl
  | 0x13 => some .xInv
  | 0x14 => some .xAffine
  | 0x15 => some .xLadder
  | 0x16 => some .xPub
  | 0x17 => some .xShared
  | 0x20 => some .dhModexp
  | 0x21 => some .dhPub
  | 0x22 => some .dhShared
  | 0x30 => some .pInit
  | 0x31 => some (.pUpdate pad)
  | 0x32 => some .pBlock
  | 0x33 => some .pTag
  | _ => none

/-- R309, step by step: RSVD, then the table, then PAD. -/
def decode (w : Word) : Except DecodeError Instr :=
  let f := fieldsOf w
  if f.rsvd ≠ 0#23 then .error .reservedBits
  else
    match commandOfOpcode f.opc f.pad with
    | none => .error .unassignedOpcode
    | some i => if f.pad = true ∧ f.opc ≠ 0x31#8 then .error .padNotAllowed else .ok i

/-- The command word whose byte lanes 0..3 hold the given bytes (R202, R204), decoded; every other number of bytes is
rejected, since a command is exactly one word (R300, R310). Byte order: assumption log 16. -/
def decodeBytes : List Byte → Except DecodeError Instr
  | [b0, b1, b2, b3] => decode (b3 ++ b2 ++ b1 ++ b0)
  | _ => .error .notOneWord

/-- Byte lane `j` of a word: bits 8j+7..8j (R202). -/
def wordByte (w : Word) (j : Nat) : Byte := w.extractLsb' (8 * j) 8

/-- The command the decoder reads from the opcode-table word `w` of `nbits` bits, laid out as four byte lanes. -/
def decodeTableWord (nbits w : Nat) : Option Instr :=
  let v : Word := BitVec.ofNat 32 (w % 2 ^ nbits)
  (decodeBytes [wordByte v 0, wordByte v 1, wordByte v 2, wordByte v 3]).toOption

/-- The operation code of a command (R304). -/
def opcodeOf : Instr → BitVec 8
  | .nop => 0x00#8
  | .xClamp => 0x10#8
  | .xPadd => 0x11#8
  | .xPdbl => 0x12#8
  | .xInv => 0x13#8
  | .xAffine => 0x14#8
  | .xLadder => 0x15#8
  | .xPub => 0x16#8
  | .xShared => 0x17#8
  | .dhModexp => 0x20#8
  | .dhPub => 0x21#8
  | .dhShared => 0x22#8
  | .pInit => 0x30#8
  | .pUpdate _ => 0x31#8
  | .pBlock => 0x32#8
  | .pTag => 0x33#8

/-- The pad flag of a command (R302). -/
def padOf : Instr → Bool
  | .pUpdate pad => pad
  | .nop => false
  | .xClamp => false
  | .xPadd => false
  | .xPdbl => false
  | .xInv => false
  | .xAffine => false
  | .xLadder => false
  | .xPub => false
  | .xShared => false
  | .dhModexp => false
  | .dhPub => false
  | .dhShared => false
  | .pInit => false
  | .pBlock => false
  | .pTag => false

/-- The command word of a command (R300-R304, R313: `OPC(MNEM) | (PAD ? 0x100 : 0)`). -/
def encode (i : Instr) : Word := wordOf { opc := opcodeOf i, pad := padOf i, rsvd := 0#23 }

end Sys2Proof
end

