-- ==== Sys2Proof/Machine/HostBus.lean ====
section
/-! DEFINITION. Host bus accesses (R200-R212), soft reset (R1003, R1004) and the power-on turn (R1000). -/

namespace Sys2Proof.Machine

/-- A host-visible register (R103). -/
inductive Reg where
  | id
  | ctrl
  | status
  | cmd
  | srcAddr (k : Fin 3)
  | srcLen (k : Fin 3)
  | dstAddr
deriving DecidableEq, Repr

/-- What a host bus offset names (R201). -/
inductive Target where
  | reg (r : Reg)
  | reserved
  | window (a : Nat)
deriving DecidableEq, Repr

/-- The target of an access: offset bits 1:0 are ignored (R203), then the map of R201 and R103. -/
def busTarget (off : BitVec 13) : Target :=
  let o := off.toNat / 4 * 4
  if 0x1000 ≤ o then .window (o - 0x1000)
  else
    match o with
    | 0x000 => .reg .id
    | 0x004 => .reg .ctrl
    | 0x008 => .reg .status
    | 0x00C => .reg .cmd
    | 0x010 => .reg (.srcAddr 0)
    | 0x014 => .reg (.srcLen 0)
    | 0x018 => .reg (.srcAddr 1)
    | 0x01C => .reg (.srcLen 1)
    | 0x020 => .reg (.srcAddr 2)
    | 0x024 => .reg (.srcLen 2)
    | 0x028 => .reg .dstAddr
    | _ => .reserved

/-- The value of a register as a host reads it; reserved bits read 0 (R103-R109). -/
def regRead (r : Reg) (s : State) : Word :=
  match r with
  | .id => Config.idValue
  | .ctrl => s.ctrlWord
  | .status => s.statusWord
  | .cmd => s.cmd
  | .srcAddr k => (s.src[k]).addr.setWidth 32
  | .srcLen k => (s.src[k]).len.setWidth 32
  | .dstAddr => s.dst.setWidth 32

/-- The BUF word at BUF address `a`, `BUF[a]` in bits 7:0 (R204). -/
def windowWord (m : Memory) (a : Nat) : Word := m.read (a + 3) ++ m.read (a + 2) ++ m.read (a + 1) ++ m.read a

/-- All 8 bits of a lane, or none. -/
def laneMask (on : Bool) : Byte := if on then 0xFF#8 else 0x00#8

/-- The data bits the strobes enable: strobe `j` enables bits 8j+7..8j (R202). -/
def strobeMask (strb : BitVec 4) : Word :=
  laneMask (strb.getLsbD 3) ++ laneMask (strb.getLsbD 2) ++ laneMask (strb.getLsbD 1) ++ laneMask (strb.getLsbD 0)

/-- A register word after a write: strobed bytes from `new`, the others from `old` (R207). -/
def merge (old new : Word) (strb : BitVec 4) : Word := (old &&& ~~~(strobeMask strb)) ||| (new &&& strobeMask strb)

/-- One byte lane of a BUF window write (R204). -/
def writeLane (m : Memory) (a : Nat) (v : Word) (strb : BitVec 4) (j : Nat) : Memory :=
  if strb.getLsbD j then m.write (a + j) (wordByte v j) else m

/-- A BUF window write: each strobed lane `j` to `BUF[a + j]` (R204). -/
def writeWindow (m : Memory) (a : Nat) (v : Word) (strb : BitVec 4) : Memory :=
  writeLane (writeLane (writeLane (writeLane m a v strb 0) a v strb 1) a v strb 2) a v strb 3

/-- `n` bytes from `a` up made free values, the draws numbered from `c` (R1004); bytes outside BUF do not exist. -/
def scrambleBytes (m : Memory) (a c : Nat) : Nat → Memory
  | 0 => m
  | n + 1 =>
    scrambleBytes (if a < Config.bufSize then m.write a (Config.freeByte c) else m) (a + 1) (c + 1) n

/-- How many destination bytes an aborted command word leaves unspecified: its outlen (R1004); an illegal word has none. -/
def abortLength (w : Word) : Nat :=
  match decode w with
  | .ok i => outlen i
  | .error _ => 0

/-- Soft reset (R1003): the soft-reset column of R1001; a command in flight is aborted and its destination bytes are
unspecified (R1004); every other BUF byte stays. -/
def State.softReset (s : State) : State :=
  let n := if s.busy then abortLength s.lat.word else 0
  { State.powerOn s.pDh [] with
    buf := scrambleBytes s.buf s.lat.dst.toNat s.freeCount n
    turns := s.turns, rdata := s.rdata, freeCount := s.freeCount + n }

/-- The power-on turn (R1000): the power-on column of R1001 with `init` in BUF; P_DH is wired and stays
(R9), and the turns to come and the count of free bytes drawn are the model's own and go on. -/
def powerOnTurn (init : List Byte) (s : State) : State :=
  { State.powerOn s.pDh init with turns := s.turns, freeCount := s.freeCount }

/-- A write to CTRL (R105, R207, R810): soft reset if byte 3 is strobed and bit 31 is 1, else bits 1:0. -/
def writeCtrl (v : Word) (strb : BitVec 4) (s : State) : State :=
  if strb.getLsbD 3 = true ∧ v.getLsbD 31 = true then s.softReset
  else
    let w := merge s.ctrlWord v strb
    { s with degenChk := w.getLsbD 0, irqEn := w.getLsbD 1 }

/-- A write to STATUS: W1C on DONE, CMD_OVR and BUF_CONF; an unstrobed byte counts as written with 0 (R106, R207). -/
def writeStatus (v : Word) (strb : BitVec 4) (s : State) : State :=
  let w := merge 0x00000000#32 v strb
  { s with
    done := s.done && !w.getLsbD 1
    cmdOvr := s.cmdOvr && !w.getLsbD 2
    bufConf := s.bufConf && !w.getLsbD 3 }

/-- A write to CMD: ignored unless all four strobes are set (R208); issue when idle (R801); dropped with CMD_OVR while a
command is in flight (R803). -/
def writeCmd (v : Word) (strb : BitVec 4) (s : State) : State :=
  if strb ≠ 0b1111#4 then s
  else if s.busy then { s with cmdOvr := true }
  else s.issue v

/-- A write to SRCk_ADDR (R108, R207). -/
def writeSrcAddr (k : Fin 3) (v : Word) (strb : BitVec 4) (s : State) : State :=
  let d := s.src[k]
  { s with src := s.src.set k { d with addr := (merge (d.addr.setWidth 32) v strb).setWidth 12 } }

/-- A write to SRCk_LEN (R108, R207). -/
def writeSrcLen (k : Fin 3) (v : Word) (strb : BitVec 4) (s : State) : State :=
  let d := s.src[k]
  { s with src := s.src.set k { d with len := (merge (d.len.setWidth 32) v strb).setWidth 13 } }

/-- A write to DST_ADDR (R109, R207). -/
def writeDst (v : Word) (strb : BitVec 4) (s : State) : State :=
  { s with dst := (merge (s.dst.setWidth 32) v strb).setWidth 12 }

/-- A register write (R103-R109); ID ignores writes (R104). -/
def regWrite (r : Reg) (v : Word) (strb : BitVec 4) (s : State) : State :=
  match r with
  | .id => s
  | .ctrl => writeCtrl v strb s
  | .status => writeStatus v strb s
  | .cmd => writeCmd v strb s
  | .srcAddr k => writeSrcAddr k v strb s
  | .srcLen k => writeSrcLen k v strb s
  | .dstAddr => writeDst v strb s

/-- A host read: the returned word goes to `rdata`; only a BUF window read while BUSY has a side effect (R201, R204, R209,
R210, R212). -/
def hostRead (off : BitVec 13) (s : State) : State :=
  match busTarget off with
  | .reg r => { s with rdata := some (regRead r s) }
  | .reserved => { s with rdata := some 0x00000000#32 }
  | .window a =>
    if s.busy then { s with rdata := some 0x00000000#32, bufConf := true }
    else { s with rdata := some (windowWord s.buf a) }

/-- A host write (R201, R204, R207-R210, R212). -/
def hostWrite (off : BitVec 13) (v : Word) (strb : BitVec 4) (s : State) : State :=
  match busTarget off with
  | .reg r => regWrite r v strb s
  | .reserved => s
  | .window a =>
    if s.busy then { s with bufConf := true }
    else { s with buf := writeWindow s.buf a v strb }

end Sys2Proof.Machine
end

