-- ==== Sys2Proof/Machine/Engine.lean ====
section
/-! DEFINITION. The completion step of the command engine (R802) and what each turn does (R800). -/

namespace Sys2Proof.Machine

/-- The completion step of the command in flight: the word is decoded here (R309), and an illegal word completes with
ILLEGAL_CMD (R308, R902). -/
def completion (s : State) : Host.Outcome State Fault Refusal :=
  match decode s.lat.word with
  | .ok i => exec i s
  | .error _ => .next (s.completeWith .illegalCmd)

/-- The engine's turn: the completion is enabled only while BUSY = 1 (R800, R802); otherwise nothing changes
(assumption log 3). -/
def engineTurn (s : State) : Host.Outcome State Fault Refusal := if s.busy then completion s else .next s

/-- What one turn does to the block (R800). -/
def takeTurn (t : Turn) (s : State) : Host.Outcome State Fault Refusal :=
  match t with
  | .read off => .next (hostRead off s)
  | .write off data strb => .next (hostWrite off data strb s)
  | .engine => engineTurn s
  | .powerOn init => .next (powerOnTurn init s)

end Sys2Proof.Machine
end

