-- ==== Sys2Proof/Machine/Step.lean ====
section
/-! DEFINITION. One step: the turn at the head of `turns` (R800). -/

namespace Sys2Proof.Machine

/-- One step (R800). When no turn is left the engine moves: a command in flight completes (R808), an idle block stays as it
is (assumption logs 2 and 3). -/
def step (s : State) : Host.Outcome State Fault Refusal :=
  match s.turns with
  | [] => engineTurn s
  | t :: rest => takeTurn t { s with turns := rest }

/-- `s` with the command word `w` of `nbits` bits issued (R801) and the engine next to move, so that the next step is the
completion of that command (assumption log 10). -/
def State.withFetchWord (s : State) (nbits w : Nat) : State :=
  { s.issue (BitVec.ofNat 32 (w % 2 ^ nbits)) with turns := .engine :: s.turns }

end Sys2Proof.Machine
end

