-- ==== Sys2Proof/Machine/HostProgram.lean ====
section
/-! DEFINITION. The host-side pseudo-operations of R312-R316 as the bus accesses they expand to, each a list of turns of the
host, and what the host keeps of its reads. The host's own control flow (the loop of WAIT, the branch of IFERR) is outside the block (R811); `waitAfter` is the
run of WAIT whose completion lands after a given number of polls. -/

namespace Sys2Proof.Machine.HostProgram

/-- `WR off, v[, strb]`; the strobe is 0b1111 by default (R312). -/
def wr (off : Nat) (v : Word) (strb : BitVec 4 := 0b1111#4) : List Turn := [.write (BitVec.ofNat 13 off) v strb]

/-- `RD off` (R312). -/
def rd (off : Nat) : List Turn := [.read (BitVec.ofNat 13 off)]

/-- The byte string `v` at BUF address `a` reaches BUF address `b`. -/
def covers (a : Nat) (v : List Byte) (b : Nat) : Bool := a ≤ b && b < a + v.length

/-- The byte of lane `b` of a `WRB a, v`: the string's byte, or 0 in a lane that is not strobed (assumption log 18). -/
def laneByte (a : Nat) (v : List Byte) (b : Nat) : Byte := if covers a v b then v.getD (b - a) 0x00#8 else 0x00#8

/-- The one word write of `WRB a, v` at the word whose BUF address is `w` (R312). -/
def wrbWord (a : Nat) (v : List Byte) (w : Nat) : Turn :=
  .write (BitVec.ofNat 13 (0x1000 + w))
    (laneByte a v (w + 3) ++ laneByte a v (w + 2) ++ laneByte a v (w + 1) ++ laneByte a v w)
    (BitVec.ofBool (covers a v (w + 3)) ++ BitVec.ofBool (covers a v (w + 2)) ++ BitVec.ofBool (covers a v (w + 1))
      ++ BitVec.ofBool (covers a v w))

/-- The BUF addresses of the words that `n` bytes from `a` up touch. -/
def wordsOf (a n : Nat) : List Nat :=
  if n = 0 then [] else (List.range ((a + n - 1) / 4 + 1 - a / 4)).map fun i => (a / 4 + i) * 4

/-- `WRB a, v` (R312). -/
def wrb (a : Nat) (v : List Byte) : List Turn := (wordsOf a v.length).map (wrbWord a v)

/-- `RDB a, n` (R312). -/
def rdb (a n : Nat) : List Turn := (wordsOf a n).flatMap fun w => rd (0x1000 + w)

/-- The next turn is a host read. -/
def readsNext (ts : List Turn) : Bool :=
  match ts with
  | .read _ :: _ => true
  | .write _ _ _ :: _ => false
  | .engine :: _ => false
  | .powerOn _ :: _ => false
  | [] => false

/-- The words `k` steps from `s` return to the host, in order: the `t` of each `RD off -> t` (R312, R202). -/
def returned : Nat → State → List Word
  | 0, _ => []
  | k + 1, s =>
    match step s with
    | .next t => (if readsNext s.turns then t.rdata.toList else []) ++ returned k t
    | .fault _ => []
    | .refused _ => []

/-- The `t` of `RDB a, n -> t` from the words its reads returned: their lanes in order, keeping the `n` from BUF address `a`
up (R312, R204). -/
def rdbBytes (a n : Nat) (ws : List Word) : List Byte :=
  ((ws.flatMap fun w => [wordByte w 0, wordByte w 1, wordByte w 2, wordByte w 3]).drop (a % 4)).take n

/-- `WAIT` (R312) in the run where the completion comes after `polls` reads of STATUS that still show BUSY = 1. -/
def waitAfter (polls : Nat) : List Turn :=
  List.replicate polls (.read 0x008#13) ++ [.engine, .read 0x008#13]

/-- The test `t[0] = 1` of WAIT on a STATUS word (R312). -/
def showsBusy (t : Word) : Bool := t.getLsbD 0

/-- `CLRDONE` (R312). -/
def clrDone : List Turn := wr 0x008 0x00000002#32

/-- The test `t[15:8] = e` of IFERR on a STATUS word (R312). -/
def showsError (e : BitVec 8) (t : Word) : Bool := t.extractLsb' 8 8 == e

/-- The descriptor writes of the sources of a command line, from source `k` on (R313). -/
def writeSources : Nat → List SourceOperand → List Turn
  | _, [] => []
  | k, o :: rest =>
    wr (0x010 + 8 * k) (BitVec.ofNat 32 o.addr) ++ wr (0x014 + 8 * k) (BitVec.ofNat 32 o.len) ++ writeSources (k + 1) rest

/-- The expansion of a command line (R313): the sources, the destination if there is one, then the command word. -/
def expand (c : CommandLine) : List Turn :=
  writeSources 0 c.sources
    ++ (match c.dst with
        | some d => wr 0x028 (BitVec.ofNat 32 d)
        | none => [])
    ++ wr 0x00C (encode c.instr)

/-- `X_KEYGEN d, a:32` with the 32 random bytes `r` the host draws (R314). -/
def xKeygen (d a : Nat) (r : List Byte) : List Turn :=
  wrb a r ++ expand { instr := .xClamp, dst := some d, sources := [{ addr := a, len := 32 }] }

/-- `DH_KEYGEN a` with the 32 random bytes `r` the host draws; no command is issued (R315). -/
def dhKeygen (a : Nat) (r : List Byte) : List Turn := wrb a r

/-- `DH_KEYGEN_PUB d, a` (R315). -/
def dhKeygenPub (d a : Nat) (r : List Byte) : List Turn :=
  dhKeygen a r ++ expand { instr := .dhPub, dst := some d, sources := [{ addr := a, len := 32 }] }

/-- `P_MAC d, k:32, m:n` (R316), its three WAITs seeing their completions after `p`, `q` and `r` polls. -/
def pMac (d k m n p q r : Nat) : List Turn :=
  expand { instr := .pInit, dst := none, sources := [{ addr := k, len := 32 }] } ++ waitAfter p
    ++ expand { instr := .pUpdate false, dst := none, sources := [{ addr := m, len := n }] } ++ waitAfter q
    ++ expand { instr := .pTag, dst := some d, sources := [] } ++ waitAfter r

end Sys2Proof.Machine.HostProgram
end

