-- ==== Sys2Proof/Safety.lean ====
section
/-! DEFINITION. The terms the statements use: the latched operands of a command, what a successful and a failed completion
leave, the causes of the error codes, the invariant, the events of a step, a safe run, the reference Poly1305 computation, and
what a host can see. -/

namespace Sys2Proof.Machine

/-- `LAT.src[k].addr` as a BUF address (R213). -/
def State.srcAddr (s : State) (k : Fin 3) : Nat := (s.lat.src[k]).addr.toNat

/-- `LAT.src[k].len` (R213). -/
def State.srcLen (s : State) (k : Fin 3) : Nat := (s.lat.src[k]).len.toNat

/-- The bytes of source k, `MemRead(LAT.src[k].addr, LAT.src[k].len)` (R213, R406). -/
def State.srcBytes (s : State) (k : Fin 3) : List Byte := s.buf.readBytes (s.srcAddr k) (s.srcLen k)

/-- `LAT.dst` as a BUF address (R213). -/
def State.dstAt (s : State) : Nat := s.lat.dst.toNat

/-- The state a successful completion leaves: `v` at LAT.dst, `p` in P, ERRCODE 0, LASTOP, BUSY 0, DONE 1, all else as it
was (R802, R905, R407). -/
def State.succeeded (s : State) (v : List Byte) (p : Poly) : State :=
  { s with
    buf := s.buf.writeBytes s.dstAt v, poly := p
    errcode := .ok, lastop := s.lat.word.extractLsb' 0 8, busy := false, done := true }

/-- The state an error completion with code `e` leaves: no BUF byte and no field of P written (R904). -/
def State.failed (s : State) (e : ErrCode) : State :=
  { s with errcode := e, lastop := s.lat.word.extractLsb' 0 8, busy := false, done := true }

/-- `t` differs from `s` at most in BUF, in P and in the four STATUS fields a completion writes (BUSY, DONE, ERRCODE, LASTOP,
R802): every control register, descriptor, W1C record and CMD is as it was, and so are P_DH and the model's own fields; that LAT is
as it was is the model's choice (assumption log 7). -/
def SameRegisters (s t : State) : Prop :=
  t.degenChk = s.degenChk ∧ t.irqEn = s.irqEn ∧ t.cmdOvr = s.cmdOvr ∧ t.bufConf = s.bufConf ∧ t.cmd = s.cmd
    ∧ t.src = s.src ∧ t.dst = s.dst ∧ t.lat = s.lat ∧ t.pDh = s.pDh ∧ t.turns = s.turns ∧ t.rdata = s.rdata
    ∧ t.freeCount = s.freeCount

/-- `n` bytes from BUF address `a` up lie inside BUF (R214). -/
abbrev InBuf (a n : Nat) : Prop := a + n ≤ 4096

/-- The cause of each error code for a legal command (R901, third column). -/
def applies (e : ErrCode) (i : Instr) (s : State) : Prop :=
  match e with
  | .ok => False
  | .illegalCmd => False
  | .invalidLength => ∃ kc ∈ usedSources i, kc.2.holds (s.srcLen kc.1) = false
  | .badRange =>
    (∃ kc ∈ usedSources i, 4096 < s.srcAddr kc.1 + s.srcLen kc.1) ∨ (0 < outlen i ∧ 4096 < s.dstAt + outlen i)
  | .pNotInit => needsAccum i = true ∧ s.poly.pstate = .idle
  | .pFinalized => needsAccum i = true ∧ s.poly.pstate = .final
  | .pSequence => i = .pBlock ∧ s.poly.pupd = true
  | .zeroScalar => i = .xLadder ∧ unpack (s.srcBytes 0) = 0
  | .degenerate =>
    s.lat.degen = true ∧
      ((i = .xShared ∧ affine (ladder (clamp (unpack (s.srcBytes 0))) (unpack (s.srcBytes 1))) = 0) ∨
        (i = .dhShared ∧
          (unpack (s.srcBytes 1) % s.pDh = 0 ∨ unpack (s.srcBytes 1) % s.pDh = 1 ∨
            unpack (s.srcBytes 1) % s.pDh = s.pDh - 1)))

/-- The invariants of P (R121, R123): PACC reduced, PR masked, PTAIL zero from PTLEN on, PUPD set where bytes are buffered,
and every field zero when PSTATE is not ACCUM. -/
def Poly.wf (p : Poly) : Bool :=
  p.pacc < Config.p1305 && (p.pr &&& ~~~Config.rMask) == 0#128 && (p.ptail.toList.drop p.ptlen).all (· == 0#8)
    && (p.ptlen.val == 0 || p.pupd) && (p.pstate == .accum || p == Poly.zero p.pstate)

/-- The invariant of the block: BUF in canonical form, P well formed, P_DH an admitted value (R601), and while a command
is in flight DONE = 0, ERRCODE = 0 (R801) and LAT.word is the word CMD reads (R107, R803). -/
def State.inv (s : State) : Bool :=
  s.buf.wf && s.poly.wf && Config.admitsPDh s.pDh && (!s.busy || (!s.done && s.errcode == .ok && s.lat.word == s.cmd))

/-- The engine moves next and completes the command in flight (R802). -/
def EngineMoves (s : State) : Prop := s.busy = true ∧ (s.turns = [] ∨ s.turns.head? = some .engine)

/-- Power-on or the reset input comes next (R1000). -/
def PowersOn (s : State) : Prop := ∃ init : List Byte, s.turns.head? = some (.powerOn init)

/-- The host next writes the register word number `k` (offset 4k, R203) with data and strobes that satisfy `p`. -/
def HostWrites (s : State) (k : Nat) (p : Word → BitVec 4 → Prop) : Prop :=
  ∃ (o : BitVec 13) (v : Word) (strb : BitVec 4), s.turns.head? = some (.write o v strb) ∧ o.toNat / 4 = k ∧ p v strb

/-- The host next asks for a soft reset (R1003). -/
def SoftResets (s : State) : Prop := HostWrites s 1 fun v strb => strb.getLsbD 3 = true ∧ v.getLsbD 31 = true

/-- The host next issues a command (R801). -/
def IssuesCommand (s : State) : Prop := s.busy = false ∧ HostWrites s 3 fun _ strb => strb = 0b1111#4

/-- The host next writes 1 to bit `b` of STATUS in a strobed byte 0 (R106, R207). -/
def ClearsStatusBit (s : State) (b : Nat) : Prop :=
  HostWrites s 2 fun v strb => strb.getLsbD 0 = true ∧ v.getLsbD b = true

/-- The host next reads or writes in the BUF window (R201). -/
def AccessesWindow (s : State) : Prop :=
  ∃ o : BitVec 13, 0x1000 ≤ o.toNat ∧
    (s.turns.head? = some (.read o) ∨ ∃ (v : Word) (strb : BitVec 4), s.turns.head? = some (.write o v strb))

/-- A safe run from `s`: however many steps are taken, none stops. -/
def SafeRun (s : State) : Prop := ∀ k : Nat, ∃ t : State, Sys2Proof.core.run k s = .next t

/-- `B` cut into consecutive 16-byte chunks, the last one shorter if need be; `n` bounds their number (R707). -/
def chunksOf : Nat → List Byte → List (List Byte)
  | 0, _ => []
  | n + 1, b => if b.isEmpty then [] else b.take 16 :: chunksOf n (b.drop 16)

/-- The accumulator of the reference after the chunks `cs`: `acc = ((acc + n) * r) mod p` for each (R701, R707). -/
def referenceAcc (r : Nat) (acc : Nat) (cs : List (List Byte)) : Nat :=
  cs.foldl (fun a c => (a + (unpack c + 2 ^ (8 * c.length))) * r % (2 ^ 130 - 5)) acc

/-- The reference's tag for the key `k`, the directly absorbed chunks `cs` and the buffered stream `b` (R707). -/
def referenceTag (k : List Byte) (cs : List (List Byte)) (b : List Byte) : Nat :=
  (referenceAcc (unpack (k.take 16) &&& 0x0ffffffc0ffffffc0ffffffc0fffffff) 0 (cs ++ chunksOf b.length b)
      + unpack (k.drop 16)) % 2 ^ 128

/-- The state with the fields of P that no host access can read made zero (R121, R130). -/
def State.visible (s : State) : State :=
  { s with poly := { Poly.zero s.poly.pstate with pupd := s.poly.pupd } }

end Sys2Proof.Machine
end

