-- ==== Sys2Proof/Certificates/Slice0/Obligations.lean ====
section
/-! DEFINITION. The statements for the provers. Each docstring names the rule of `spec/` it formalises. -/

open Sys2Proof Sys2Proof.Machine

/-! ### Encoding -/

/-- R304, R309: command words of every family, written out from R300-R304, decode to their commands; the words of R308's
kinds of illegality are rejected by name. -/
def Obligations.DecodeOfWrittenWords : Prop :=
  decode 0x00000000#32 = .ok .nop ∧ decode 0x00000010#32 = .ok .xClamp ∧ decode 0x00000017#32 = .ok .xShared ∧
  decode 0x00000020#32 = .ok .dhModexp ∧ decode 0x00000022#32 = .ok .dhShared ∧ decode 0x00000030#32 = .ok .pInit ∧
  decode 0x00000031#32 = .ok (.pUpdate false) ∧ decode 0x00000131#32 = .ok (.pUpdate true) ∧
  decode 0x00000033#32 = .ok .pTag ∧
  decode 0x00000040#32 = .error .unassignedOpcode ∧ decode 0x00000116#32 = .error .padNotAllowed ∧
  decode 0x00000231#32 = .error .reservedBits

/-- R300-R304: decoding the encoding of a well-formed command gives it back, with both pad values. -/
def Obligations.DecodeEncodeRoundTrip : Prop := ∀ i : Instr, i.wf = true → decode (encode i) = .ok i

/-- R309: a legal word is the encoding of the command it decodes to, so no two words decode to one command. -/
def Obligations.EncodeDecodeRoundTrip : Prop := ∀ (w : Word) (i : Instr), decode w = .ok i → encode i = w

/-- R308: a word decodes to a command exactly when OPC is assigned, RSVD = 0 and PAD = 0 or OPC = 0x31. -/
def Obligations.DecodeRejectsExactlyIllegal : Prop :=
  ∀ w : Word, (∃ i, decode w = .ok i) ↔ (fieldsOf w).wf = true

/-! ### Codec, field and accumulator functions -/

/-- R401, R402, R403: `unpack` is the sum of `b[i] · 2^(8i)`; byte `i` of `pack_w(n)` is `(n >> 8i) & 255`, and there are `w`
bytes; the round trip, both ways. -/
def Obligations.CodecLittleEndianRoundTrip : Prop :=
  (∀ b : List Byte, unpack b = ∑ i ∈ Finset.range b.length, (b.getD i 0#8).toNat * 2 ^ (8 * i)) ∧
  (∀ w n : Nat, (pack w n).length = w ∧ ∀ i < w, ((pack w n).getD i 0#8).toNat = (n >>> (8 * i)) &&& 255) ∧
  (∀ w x : Nat, unpack (pack w x) = x % 2 ^ (8 * w)) ∧
  (∀ b : List Byte, pack b.length (unpack b) = b)

/-- R502, R503: `clamp(n)` clears bits 2:0 and bit 255, sets bit 254 and keeps every other bit, hence its range and `mod 8`;
clamping raw bytes changes byte 0 and byte 31 only and is clamping the integer. -/
def Obligations.ClampBitsAndBytes : Prop :=
  (∀ n : Nat, n < 2 ^ 256 →
    (∀ j : Nat, (clamp n).testBit j =
      if j < 3 then false else if j = 255 then false else if j = 254 then true else n.testBit j) ∧
    2 ^ 254 ≤ clamp n ∧ clamp n < 2 ^ 255 ∧ clamp n % 8 = 0) ∧
  (∀ b : List Byte, b.length = 32 →
    unpack (clampBytes b) = clamp (unpack b) ∧
    (∀ i : Nat, (clampBytes b).getD i 0#8 =
      if i = 0 then b.getD 0 0#8 &&& 0xF8#8
      else if i = 31 then (b.getD 31 0#8 &&& 0x7F#8) ||| 0x40#8 else b.getD i 0#8))

/-- R504, R505: the point formulas over the integers, reduced mod p as the last step; `padd` is symmetric in `n` and `m`. -/
def Obligations.PointFormulas : Prop :=
  (∀ n m d : Pair, padd n m d = padd m n d ∧
    ((padd n m d).x : Int) = (4 * ((m.x : Int) * n.x - m.z * n.z) ^ 2 * d.z) % (2 ^ 255 - 19) ∧
    ((padd n m d).z : Int) = (4 * ((m.x : Int) * n.z - m.z * n.x) ^ 2 * d.x) % (2 ^ 255 - 19)) ∧
  (∀ n : Pair,
    ((pdbl n).x : Int) = (((n.x : Int) ^ 2 - (n.z : Int) ^ 2) ^ 2) % (2 ^ 255 - 19) ∧
    ((pdbl n).z : Int) =
      (4 * (n.x : Int) * n.z * ((n.x : Int) ^ 2 + 486662 * n.x * n.z + (n.z : Int) ^ 2)) % (2 ^ 255 - 19))

/-- R501: every curve function result lies in [0, p) and equals its result on inputs reduced mod p. -/
def Obligations.CurveResultsReduced : Prop :=
  (∀ n m d : Pair, (padd n m d).x < 2 ^ 255 - 19 ∧ (padd n m d).z < 2 ^ 255 - 19 ∧
    padd n m d = padd ⟨n.x % (2 ^ 255 - 19), n.z % (2 ^ 255 - 19)⟩ ⟨m.x % (2 ^ 255 - 19), m.z % (2 ^ 255 - 19)⟩
      ⟨d.x % (2 ^ 255 - 19), d.z % (2 ^ 255 - 19)⟩) ∧
  (∀ n : Pair, (pdbl n).x < 2 ^ 255 - 19 ∧ (pdbl n).z < 2 ^ 255 - 19 ∧
    pdbl n = pdbl ⟨n.x % (2 ^ 255 - 19), n.z % (2 ^ 255 - 19)⟩ ∧
    affine n < 2 ^ 255 - 19 ∧ affine n = affine ⟨n.x % (2 ^ 255 - 19), n.z % (2 ^ 255 - 19)⟩) ∧
  (∀ z : Nat, finv z < 2 ^ 255 - 19 ∧ finv z = finv (z % (2 ^ 255 - 19))) ∧
  (∀ n u : Nat, (ladder n u).x < 2 ^ 255 - 19 ∧ (ladder n u).z < 2 ^ 255 - 19 ∧
    ladder n u = ladder n (u % (2 ^ 255 - 19)))

/-- R506, R507: the loop computes `z^(p−2) mod p`, 0 for `z ≡ 0`; `affine(X, Z) = X · finv(Z) mod p`, 0 when `Z ≡ 0`. -/
def Obligations.InverseIsFermatPower : Prop :=
  (∀ z : Nat, finv z = z ^ (2 ^ 255 - 19 - 2) % (2 ^ 255 - 19)) ∧
  (∀ z : Nat, z % (2 ^ 255 - 19) = 0 → finv z = 0) ∧
  (∀ q : Pair, affine q = q.x * finv q.z % (2 ^ 255 - 19)) ∧
  (∀ q : Pair, q.z % (2 ^ 255 - 19) = 0 → affine q = 0)

/-- R508: the recursion of the ladder, for every scalar below 2^256. -/
def Obligations.LadderRecursion : Prop :=
  ∀ u : Nat,
    (ladderPair u 256 1 = (⟨u % (2 ^ 255 - 19), 1⟩, pdbl ⟨u % (2 ^ 255 - 19), 1⟩)) ∧
    (∀ m : Nat, 2 ≤ m → m < 2 ^ 256 →
      ladderPair u 256 m =
        if m % 2 = 1 then
          (padd (ladderPair u 256 (m / 2)).1 (ladderPair u 256 (m / 2)).2 ⟨u % (2 ^ 255 - 19), 1⟩,
            pdbl (ladderPair u 256 (m / 2)).2)
        else
          (pdbl (ladderPair u 256 (m / 2)).1,
            padd (ladderPair u 256 (m / 2)).1 (ladderPair u 256 (m / 2)).2 ⟨u % (2 ^ 255 - 19), 1⟩)) ∧
    (∀ n : Nat, ladder n u = (ladderPair u 256 n).1)

/-- R602: the loop computes `b^e mod P` with `0^0 = 1`, in [0, P), for every modulus P > 1 (R601: every odd 2048-bit one). -/
def Obligations.ModexpIsPower : Prop :=
  ∀ m b e : Nat, 1 < m → e < 2 ^ 256 → modexp m b e = b ^ e % m ∧ modexp m b e < m

/-- R701: `absorb`, its bound, and that the extra bit tells every two chunks apart (a full block from a shorter one). -/
def Obligations.AbsorbChunk : Prop :=
  (∀ (p : Poly) (c : List Byte),
    p.absorb c = { p with pacc := (p.pacc + (unpack c + 2 ^ (8 * c.length))) * p.pr.toNat % (2 ^ 130 - 5) } ∧
    (p.absorb c).pacc < 2 ^ 130 - 5) ∧
  (∀ c c' : List Byte, unpack c + 2 ^ (8 * c.length) = unpack c' + 2 ^ (8 * c'.length) → c = c')

/-- R703: streaming. With `B` the buffered bytes followed by the segment, each complete 16 bytes of `B` are absorbed in
order, the rest stays in PTAIL, PUPD is set if a byte was added, and nothing else of P changes. -/
def Obligations.UpdateAbsorbsCompleteBlocks : Prop :=
  ∀ (p : Poly) (seg : List Byte),
    let B := p.tailBytes ++ seg
    let q := B.length / 16 * 16
    (p.update seg).tailBytes = B.drop q ∧ (p.update seg).ptlen.val = B.length % 16 ∧
    (p.update seg).pacc = referenceAcc p.pr.toNat p.pacc (chunksOf B.length (B.take q)) ∧
    (p.update seg).pr = p.pr ∧ (p.update seg).ps = p.ps ∧ (p.update seg).pstate = p.pstate ∧
    (p.update seg).pupd = (p.pupd || !seg.isEmpty)

/-- R707: P_INIT, blocks, then updates, then the tag: the block's tag is the reference's tag of the same chunks and of the
concatenation of the padded segments. -/
def Obligations.TagEqualsReference : Prop :=
  ∀ (k : List Byte) (cs : List (List Byte)) (ds : List (Bool × List Byte)), k.length = 32 →
    (ds.foldl (fun p (d : Bool × List Byte) => p.update (paddedSegment d.1 d.2)) (cs.foldl Poly.absorb (Poly.load k))).tag
      = referenceTag k cs (ds.map fun (d : Bool × List Byte) => paddedSegment d.1 d.2).flatten

/-! ### Commands -/

/-- R805: NOP, its word, its one effect, and that every other word with OPC 0x00 is illegal. -/
def Obligations.NopCompletes : Prop :=
  decode 0x00000000#32 = .ok .nop ∧
  (∀ w : Word, w.extractLsb' 0 8 = 0x00#8 → w ≠ 0x00000000#32 → ∃ e, decode w = .error e) ∧
  (∀ s : State, exec .nop s =
    .next { s with errcode := .ok, lastop := s.lat.word.extractLsb' 0 8, busy := false, done := true }) ∧
  (∀ s : State, s.lat.word = 0x00000000#32 → ∃ t, exec .nop s = .next t ∧ t.lastop = 0x00#8)

/-- R510: X_CLAMP. -/
def Obligations.XClampCompletes : Prop :=
  decode 0x00000010#32 = .ok .xClamp ∧ ∀ s : State,
    (s.srcLen 0 = 32 → InBuf (s.srcAddr 0) 32 → InBuf s.dstAt 32 →
      exec .xClamp s = .next (s.succeeded (clampBytes (s.srcBytes 0)) s.poly)) ∧
    (s.srcLen 0 ≠ 32 → exec .xClamp s = .next (s.failed .invalidLength)) ∧
    (s.srcLen 0 = 32 → ¬ (InBuf (s.srcAddr 0) 32 ∧ InBuf s.dstAt 32) → exec .xClamp s = .next (s.failed .badRange))

/-- R511: X_PADD. -/
def Obligations.XPaddCompletes : Prop :=
  decode 0x00000011#32 = .ok .xPadd ∧ ∀ s : State,
    (s.srcLen 0 = 64 → s.srcLen 1 = 64 → s.srcLen 2 = 64 →
      InBuf (s.srcAddr 0) 64 → InBuf (s.srcAddr 1) 64 → InBuf (s.srcAddr 2) 64 → InBuf s.dstAt 64 →
      exec .xPadd s = .next (s.succeeded
        (packPair (padd (unpackPair (s.srcBytes 0)) (unpackPair (s.srcBytes 1)) (unpackPair (s.srcBytes 2)))) s.poly)) ∧
    (¬ (s.srcLen 0 = 64 ∧ s.srcLen 1 = 64 ∧ s.srcLen 2 = 64) → exec .xPadd s = .next (s.failed .invalidLength)) ∧
    (s.srcLen 0 = 64 → s.srcLen 1 = 64 → s.srcLen 2 = 64 →
      ¬ (InBuf (s.srcAddr 0) 64 ∧ InBuf (s.srcAddr 1) 64 ∧ InBuf (s.srcAddr 2) 64 ∧ InBuf s.dstAt 64) →
      exec .xPadd s = .next (s.failed .badRange))

/-- R512: X_PDBL. -/
def Obligations.XPdblCompletes : Prop :=
  decode 0x00000012#32 = .ok .xPdbl ∧ ∀ s : State,
    (s.srcLen 0 = 64 → InBuf (s.srcAddr 0) 64 → InBuf s.dstAt 64 →
      exec .xPdbl s = .next (s.succeeded (packPair (pdbl (unpackPair (s.srcBytes 0)))) s.poly)) ∧
    (s.srcLen 0 ≠ 64 → exec .xPdbl s = .next (s.failed .invalidLength)) ∧
    (s.srcLen 0 = 64 → ¬ (InBuf (s.srcAddr 0) 64 ∧ InBuf s.dstAt 64) → exec .xPdbl s = .next (s.failed .badRange))

/-- R513 with R506: X_INV writes `z^(p−2) mod p`. -/
def Obligations.XInvCompletes : Prop :=
  decode 0x00000013#32 = .ok .xInv ∧ ∀ s : State,
    (s.srcLen 0 = 32 → InBuf (s.srcAddr 0) 32 → InBuf s.dstAt 32 →
      exec .xInv s = .next (s.succeeded
        (pack 32 (unpack (s.srcBytes 0) ^ (2 ^ 255 - 19 - 2) % (2 ^ 255 - 19))) s.poly)) ∧
    (s.srcLen 0 ≠ 32 → exec .xInv s = .next (s.failed .invalidLength)) ∧
    (s.srcLen 0 = 32 → ¬ (InBuf (s.srcAddr 0) 32 ∧ InBuf s.dstAt 32) → exec .xInv s = .next (s.failed .badRange))

/-- R514 with R507: X_AFFINE writes `X · Z^(p−2) mod p`. -/
def Obligations.XAffineCompletes : Prop :=
  decode 0x00000014#32 = .ok .xAffine ∧ ∀ s : State,
    (s.srcLen 0 = 64 → InBuf (s.srcAddr 0) 64 → InBuf s.dstAt 32 →
      exec .xAffine s = .next (s.succeeded
        (pack 32 (unpack ((s.srcBytes 0).take 32) *
          unpack ((s.srcBytes 0).drop 32) ^ (2 ^ 255 - 19 - 2) % (2 ^ 255 - 19))) s.poly)) ∧
    (s.srcLen 0 ≠ 64 → exec .xAffine s = .next (s.failed .invalidLength)) ∧
    (s.srcLen 0 = 64 → ¬ (InBuf (s.srcAddr 0) 64 ∧ InBuf s.dstAt 32) → exec .xAffine s = .next (s.failed .badRange))

/-- R515: X_LADDER, with ZERO_SCALAR for n = 0. -/
def Obligations.XLadderCompletes : Prop :=
  decode 0x00000015#32 = .ok .xLadder ∧ ∀ s : State,
    (s.srcLen 0 = 32 → s.srcLen 1 = 32 → InBuf (s.srcAddr 0) 32 → InBuf (s.srcAddr 1) 32 → InBuf s.dstAt 64 →
      (unpack (s.srcBytes 0) ≠ 0 →
        exec .xLadder s = .next (s.succeeded
          (packPair (ladder (unpack (s.srcBytes 0)) (unpack (s.srcBytes 1)))) s.poly)) ∧
      (unpack (s.srcBytes 0) = 0 → exec .xLadder s = .next (s.failed .zeroScalar))) ∧
    (¬ (s.srcLen 0 = 32 ∧ s.srcLen 1 = 32) → exec .xLadder s = .next (s.failed .invalidLength)) ∧
    (s.srcLen 0 = 32 → s.srcLen 1 = 32 →
      ¬ (InBuf (s.srcAddr 0) 32 ∧ InBuf (s.srcAddr 1) 32 ∧ InBuf s.dstAt 64) →
      exec .xLadder s = .next (s.failed .badRange))

/-- R516: X_PUB. -/
def Obligations.XPubCompletes : Prop :=
  decode 0x00000016#32 = .ok .xPub ∧ ∀ s : State,
    (s.srcLen 0 = 32 → InBuf (s.srcAddr 0) 32 → InBuf s.dstAt 32 →
      exec .xPub s = .next (s.succeeded (pack 32 (affine (ladder (clamp (unpack (s.srcBytes 0))) 9))) s.poly)) ∧
    (s.srcLen 0 ≠ 32 → exec .xPub s = .next (s.failed .invalidLength)) ∧
    (s.srcLen 0 = 32 → ¬ (InBuf (s.srcAddr 0) 32 ∧ InBuf s.dstAt 32) → exec .xPub s = .next (s.failed .badRange))

/-- R517, R518: X_SHARED, with DEGENERATE for a zero result when LAT.degen = 1. -/
def Obligations.XSharedCompletes : Prop :=
  decode 0x00000017#32 = .ok .xShared ∧ ∀ s : State,
    (s.srcLen 0 = 32 → s.srcLen 1 = 32 → InBuf (s.srcAddr 0) 32 → InBuf (s.srcAddr 1) 32 → InBuf s.dstAt 32 →
      (¬ (s.lat.degen = true ∧ affine (ladder (clamp (unpack (s.srcBytes 0))) (unpack (s.srcBytes 1))) = 0) →
        exec .xShared s = .next (s.succeeded
          (pack 32 (affine (ladder (clamp (unpack (s.srcBytes 0))) (unpack (s.srcBytes 1))))) s.poly)) ∧
      (s.lat.degen = true ∧ affine (ladder (clamp (unpack (s.srcBytes 0))) (unpack (s.srcBytes 1))) = 0 →
        exec .xShared s = .next (s.failed .degenerate))) ∧
    (¬ (s.srcLen 0 = 32 ∧ s.srcLen 1 = 32) → exec .xShared s = .next (s.failed .invalidLength)) ∧
    (s.srcLen 0 = 32 → s.srcLen 1 = 32 →
      ¬ (InBuf (s.srcAddr 0) 32 ∧ InBuf (s.srcAddr 1) 32 ∧ InBuf s.dstAt 32) →
      exec .xShared s = .next (s.failed .badRange))

/-- R603: DH_MODEXP writes `b^e mod P_DH`, for the machine's P_DH whatever its value above 1 (R601: every odd 2048-bit one). -/
def Obligations.DhModexpCompletes : Prop :=
  decode 0x00000020#32 = .ok .dhModexp ∧ ∀ s : State,
    (1 < s.pDh → s.srcLen 0 = 256 → s.srcLen 1 = 32 →
      InBuf (s.srcAddr 0) 256 → InBuf (s.srcAddr 1) 32 → InBuf s.dstAt 256 →
      exec .dhModexp s = .next (s.succeeded
        (pack 256 (unpack (s.srcBytes 0) ^ unpack (s.srcBytes 1) % s.pDh)) s.poly)) ∧
    (¬ (s.srcLen 0 = 256 ∧ s.srcLen 1 = 32) → exec .dhModexp s = .next (s.failed .invalidLength)) ∧
    (s.srcLen 0 = 256 → s.srcLen 1 = 32 →
      ¬ (InBuf (s.srcAddr 0) 256 ∧ InBuf (s.srcAddr 1) 32 ∧ InBuf s.dstAt 256) →
      exec .dhModexp s = .next (s.failed .badRange))

/-- R604: DH_PUB writes `2^e mod P_DH`, for the machine's P_DH whatever its value above 1. -/
def Obligations.DhPubCompletes : Prop :=
  decode 0x00000021#32 = .ok .dhPub ∧ ∀ s : State,
    (1 < s.pDh → s.srcLen 0 = 32 → InBuf (s.srcAddr 0) 32 → InBuf s.dstAt 256 →
      exec .dhPub s = .next (s.succeeded (pack 256 (2 ^ unpack (s.srcBytes 0) % s.pDh)) s.poly)) ∧
    (s.srcLen 0 ≠ 32 → exec .dhPub s = .next (s.failed .invalidLength)) ∧
    (s.srcLen 0 = 32 → ¬ (InBuf (s.srcAddr 0) 32 ∧ InBuf s.dstAt 256) → exec .dhPub s = .next (s.failed .badRange))

/-- R605, R606: DH_SHARED writes `y^e mod P_DH`; with LAT.degen = 1 a peer that is 0, 1 or P_DH − 1 mod P_DH is DEGENERATE; for
the machine's P_DH whatever its value above 1. -/
def Obligations.DhSharedCompletes : Prop :=
  decode 0x00000022#32 = .ok .dhShared ∧ ∀ s : State,
    (1 < s.pDh → s.srcLen 0 = 32 → s.srcLen 1 = 256 →
      InBuf (s.srcAddr 0) 32 → InBuf (s.srcAddr 1) 256 → InBuf s.dstAt 256 →
      (¬ (s.lat.degen = true ∧ unpack (s.srcBytes 1) % s.pDh ∈ [0, 1, s.pDh - 1]) →
        exec .dhShared s = .next (s.succeeded
          (pack 256 (unpack (s.srcBytes 1) ^ unpack (s.srcBytes 0) % s.pDh)) s.poly)) ∧
      (s.lat.degen = true ∧ unpack (s.srcBytes 1) % s.pDh ∈ [0, 1, s.pDh - 1] →
        exec .dhShared s = .next (s.failed .degenerate))) ∧
    (¬ (s.srcLen 0 = 32 ∧ s.srcLen 1 = 256) → exec .dhShared s = .next (s.failed .invalidLength)) ∧
    (s.srcLen 0 = 32 → s.srcLen 1 = 256 →
      ¬ (InBuf (s.srcAddr 0) 32 ∧ InBuf (s.srcAddr 1) 256 ∧ InBuf s.dstAt 256) →
      exec .dhShared s = .next (s.failed .badRange))

/-- R702: P_INIT, in every PSTATE. -/
def Obligations.PInitCompletes : Prop :=
  decode 0x00000030#32 = .ok .pInit ∧ ∀ s : State,
    (s.srcLen 0 = 32 → InBuf (s.srcAddr 0) 32 →
      exec .pInit s = .next (s.succeeded []
        { pr := BitVec.ofNat 128 (unpack ((s.srcBytes 0).take 16)) &&& 0x0ffffffc0ffffffc0ffffffc0fffffff#128
          ps := BitVec.ofNat 128 (unpack ((s.srcBytes 0).drop 16))
          pacc := 0, ptail := Vector.replicate 15 0#8, ptlen := 0, pupd := false, pstate := .accum })) ∧
    (s.srcLen 0 ≠ 32 → exec .pInit s = .next (s.failed .invalidLength)) ∧
    (s.srcLen 0 = 32 → ¬ InBuf (s.srcAddr 0) 32 → exec .pInit s = .next (s.failed .badRange))

/-- R703: P_UPDATE with either pad value; the segment is the data and, with PAD = 1, zeros up to a multiple of 16 bytes. What
`Poly.update` does with a segment is `UpdateAbsorbsCompleteBlocks`. -/
def Obligations.PUpdateCompletes : Prop :=
  decode 0x00000031#32 = .ok (.pUpdate false) ∧ decode 0x00000131#32 = .ok (.pUpdate true) ∧
  ∀ (s : State) (pad : Bool),
    (InBuf (s.srcAddr 0) (s.srcLen 0) → s.poly.pstate = .accum →
      exec (.pUpdate pad) s = .next (s.succeeded [] (s.poly.update
        (s.srcBytes 0 ++ if pad then List.replicate ((16 - s.srcLen 0 % 16) % 16) 0x00#8 else [])))) ∧
    (¬ InBuf (s.srcAddr 0) (s.srcLen 0) → exec (.pUpdate pad) s = .next (s.failed .badRange)) ∧
    (InBuf (s.srcAddr 0) (s.srcLen 0) → s.poly.pstate = .idle → exec (.pUpdate pad) s = .next (s.failed .pNotInit)) ∧
    (InBuf (s.srcAddr 0) (s.srcLen 0) → s.poly.pstate = .final →
      exec (.pUpdate pad) s = .next (s.failed .pFinalized))

/-- R704: P_BLOCK. -/
def Obligations.PBlockCompletes : Prop :=
  decode 0x00000032#32 = .ok .pBlock ∧ ∀ s : State,
    (s.srcLen 0 ≤ 16 → InBuf (s.srcAddr 0) (s.srcLen 0) → s.poly.pstate = .accum → s.poly.pupd = false →
      exec .pBlock s = .next (s.succeeded []
        { s.poly with
          pacc := (s.poly.pacc + (unpack (s.srcBytes 0) + 2 ^ (8 * s.srcLen 0))) * s.poly.pr.toNat % (2 ^ 130 - 5) })) ∧
    (16 < s.srcLen 0 → exec .pBlock s = .next (s.failed .invalidLength)) ∧
    (s.srcLen 0 ≤ 16 → ¬ InBuf (s.srcAddr 0) (s.srcLen 0) → exec .pBlock s = .next (s.failed .badRange)) ∧
    (s.srcLen 0 ≤ 16 → InBuf (s.srcAddr 0) (s.srcLen 0) →
      (s.poly.pstate = .idle → exec .pBlock s = .next (s.failed .pNotInit)) ∧
      (s.poly.pstate = .final → exec .pBlock s = .next (s.failed .pFinalized)) ∧
      (s.poly.pstate = .accum → s.poly.pupd = true → exec .pBlock s = .next (s.failed .pSequence)))

/-- R705: P_TAG absorbs a buffered rest, writes `(PACC + PS) mod 2^128`, zeroes P and enters FINAL. -/
def Obligations.PTagCompletes : Prop :=
  decode 0x00000033#32 = .ok .pTag ∧ ∀ s : State,
    (InBuf s.dstAt 16 → s.poly.pstate = .accum →
      exec .pTag s = .next (s.succeeded
        (pack 16 (((if 0 < s.poly.ptlen.val then s.poly.absorb (s.poly.ptail.toList.take s.poly.ptlen) else s.poly).pacc
          + s.poly.ps.toNat) % 2 ^ 128))
        { pr := 0#128, ps := 0#128, pacc := 0, ptail := Vector.replicate 15 0#8, ptlen := 0, pupd := false,
          pstate := .final })) ∧
    (¬ InBuf s.dstAt 16 → exec .pTag s = .next (s.failed .badRange)) ∧
    (InBuf s.dstAt 16 → s.poly.pstate = .idle → exec .pTag s = .next (s.failed .pNotInit)) ∧
    (InBuf s.dstAt 16 → s.poly.pstate = .final → exec .pTag s = .next (s.failed .pFinalized))

/-! ### Frames and whole-machine rules about commands -/

/-- Frame of the commands that store a result (R216, R213, R111, R705): every BUF byte outside
`LAT.dst .. LAT.dst + outlen − 1` and every register but BUSY, DONE, ERRCODE and LASTOP is unchanged; P is changed by P_TAG only,
and not when it ends in an error. That LAT is among the registers that stay is the model's choice (log 7; R131 calls it
meaningless then). -/
def Obligations.StoringCommandsFrame : Prop :=
  ∀ (i : Instr) (s t : State),
    i ∈ [Instr.xClamp, .xPadd, .xPdbl, .xInv, .xAffine, .xLadder, .xPub, .xShared, .dhModexp, .dhPub, .dhShared, .pTag] →
    s.buf.wf = true → exec i s = .next t →
    SameRegisters s t ∧ (i ≠ .pTag ∨ t.errcode ≠ .ok → t.poly = s.poly) ∧
    ∀ a : Nat, a < s.lat.dst.toNat ∨ s.lat.dst.toNat + outlen i ≤ a → t.buf.read a = s.buf.read a

/-- Frame of the commands that store nothing (R216, R305, R703, R704, R805): every BUF byte and every register but BUSY, DONE,
ERRCODE and LASTOP is unchanged; NOP leaves all of P, P_UPDATE leaves PSTATE, PR and PS, P_BLOCK leaves all of P but PACC. That LAT
is among the registers that stay is the model's choice (log 7; R131 calls it meaningless then). -/
def Obligations.NonStoringCommandsFrame : Prop :=
  ∀ (i : Instr) (s t : State),
    i ∈ [Instr.nop, .pInit, .pUpdate false, .pUpdate true, .pBlock] → exec i s = .next t →
    SameRegisters s t ∧ (∀ a : Nat, t.buf.read a = s.buf.read a) ∧
    (i = .nop → t.poly = s.poly) ∧
    (∀ pad : Bool, i = .pUpdate pad →
      t.poly.pstate = s.poly.pstate ∧ t.poly.pr = s.poly.pr ∧ t.poly.ps = s.poly.ps) ∧
    (i = .pBlock → t.poly = { s.poly with pacc := t.poly.pacc })

/-- R802, R809, R904, R905, R910: every completion clears BUSY, sets DONE and records the opcode in LASTOP; a command whose
code is not 0 leaves everything but ERRCODE, LASTOP, BUSY and DONE as it was. -/
def Obligations.CompletionAndPreciseErrors : Prop :=
  ∀ (i : Instr) (s : State), ∃ t : State, exec i s = .next t ∧
    t.busy = false ∧ t.done = true ∧ t.lastop = s.lat.word.extractLsb' 0 8 ∧
    (t.errcode ≠ .ok →
      t = { s with errcode := t.errcode, lastop := s.lat.word.extractLsb' 0 8, busy := false, done := true })

/-- R901, R903: a command reports the first code, in numeric order, whose cause applies, and 0 exactly when none does. -/
def Obligations.ErrorPriority : Prop :=
  ∀ (i : Instr) (s t : State), exec i s = .next t →
    (t.errcode ≠ .ok → applies t.errcode i s ∧ ∀ e : ErrCode, applies e i s → t.errcode.code ≤ e.code) ∧
    (t.errcode = .ok → ∀ e : ErrCode, ¬ applies e i s)

/-- R709: two unpadded updates of adjacent data leave P as one update of all of it. -/
def Obligations.UpdateChunkIndependence : Prop :=
  ∀ (s : State) (a n m : Nat), s.poly.pstate = .accum → a + n + m ≤ 4096 →
    let at0 := fun (u : State) (addr len : Nat) =>
      { u with lat := { u.lat with
          src := u.lat.src.set 0 { addr := BitVec.ofNat 12 addr, len := BitVec.ofNat 13 len } } }
    ∃ t1 t2 t : State,
      exec (.pUpdate false) (at0 s a n) = .next t1 ∧ exec (.pUpdate false) (at0 t1 (a + n) m) = .next t2 ∧
      exec (.pUpdate false) (at0 s a (n + m)) = .next t ∧ t2.poly = t.poly ∧ t.errcode = .ok

/-- R607: two parties on machines with one P_DH (R601) that exchanged their DH_PUB values get the same DH_SHARED bytes, when
neither peer is refused. -/
def Obligations.DhSharedSymmetry : Prop :=
  ∀ s t : State, t.pDh = s.pDh → 1 < s.pDh → s.pDh ≤ 2 ^ 2048 →
    s.srcLen 0 = 32 → s.srcLen 1 = 256 → InBuf (s.srcAddr 0) 32 → InBuf (s.srcAddr 1) 256 → InBuf s.dstAt 256 →
    t.srcLen 0 = 32 → t.srcLen 1 = 256 → InBuf (t.srcAddr 0) 32 → InBuf (t.srcAddr 1) 256 → InBuf t.dstAt 256 →
    s.srcBytes 1 = pack 256 (2 ^ unpack (t.srcBytes 0) % s.pDh) →
    t.srcBytes 1 = pack 256 (2 ^ unpack (s.srcBytes 0) % s.pDh) →
    ¬ applies .degenerate .dhShared s → ¬ applies .degenerate .dhShared t →
    ∃ v : List Byte, exec .dhShared s = .next (s.succeeded v s.poly) ∧ exec .dhShared t = .next (t.succeeded v t.poly)

/-! ### Host accesses -/

/-- R801: issue, and that the interrupt line falls with DONE. -/
def Obligations.IssueLatchesCommand : Prop :=
  ∀ (s : State) (v : Word) (rest : List Turn), s.busy = false →
    ∃ t : State, step { s with turns := .write 0x00C#13 v 0b1111#4 :: rest } = .next t ∧
      t = { s with
        turns := rest, cmd := v
        lat := { word := v, src := s.src, dst := s.dst, degen := s.degenChk }
        busy := true, done := false, errcode := .ok } ∧ t.irq = false

/-- R803, R208: a full CMD write while BUSY = 1 sets CMD_OVR and changes nothing else; a CMD write with a strobe missing has no
effect at all. -/
def Obligations.CmdWriteNotIssued : Prop :=
  ∀ (s : State) (v : Word) (rest : List Turn),
    (s.busy = true →
      step { s with turns := .write 0x00C#13 v 0b1111#4 :: rest } = .next { s with turns := rest, cmdOvr := true }) ∧
    (∀ strb : BitVec 4, strb ≠ 0b1111#4 →
      step { s with turns := .write 0x00C#13 v strb :: rest } = .next { s with turns := rest })

/-- R203: an access at offset `o` is performed at `o & ~3`, and it never stops the block. -/
def Obligations.OffsetLowBitsIgnored : Prop :=
  ∀ (s : State) (o : BitVec 13) (v : Word) (strb : BitVec 4) (rest : List Turn),
    step { s with turns := .read o :: rest } = step { s with turns := .read (o &&& ~~~3#13) :: rest } ∧
    step { s with turns := .write o v strb :: rest } = step { s with turns := .write (o &&& ~~~3#13) v strb :: rest } ∧
    (∃ t, step { s with turns := .read o :: rest } = .next t) ∧
    (∃ t, step { s with turns := .write o v strb :: rest } = .next t)

/-- R209, R104: reserved offsets 0x002C-0x0FFF read 0 and ignore writes, with no side effect; ID ignores writes. -/
def Obligations.ReservedOffsetsAndId : Prop :=
  ∀ (s : State) (v : Word) (strb : BitVec 4) (rest : List Turn),
    (∀ o : BitVec 13, 0x2C ≤ o.toNat → o.toNat ≤ 0xFFF →
      step { s with turns := .read o :: rest } = .next { s with turns := rest, rdata := some 0x00000000#32 } ∧
      step { s with turns := .write o v strb :: rest } = .next { s with turns := rest }) ∧
    step { s with turns := .write 0x000#13 v strb :: rest } = .next { s with turns := rest }

/-- R204: the BUF window while idle. A read returns the four bytes little-endian; a write stores exactly the strobed lanes. -/
def Obligations.BufWindowIdle : Prop :=
  ∀ (s : State) (o : BitVec 13) (v : Word) (strb : BitVec 4) (rest : List Turn),
    s.busy = false → s.buf.wf = true → 0x1000 ≤ o.toNat → o.toNat % 4 = 0 →
    let a := o.toNat - 0x1000
    step { s with turns := .read o :: rest } = .next { s with
      turns := rest
      rdata := some (BitVec.ofNat 32 ((s.buf.read a).toNat + (s.buf.read (a + 1)).toNat * 2 ^ 8
        + (s.buf.read (a + 2)).toNat * 2 ^ 16 + (s.buf.read (a + 3)).toNat * 2 ^ 24)) } ∧
    ∃ m : Memory, step { s with turns := .write o v strb :: rest } = .next { s with turns := rest, buf := m } ∧
      ∀ b : Nat, m.read b =
        if a ≤ b ∧ b < a + 4 ∧ strb.getLsbD (b - a) = true then v.extractLsb' (8 * (b - a)) 8 else s.buf.read b

/-- R212: the BUF window while a command is in flight. -/
def Obligations.BufWindowBusy : Prop :=
  ∀ (s : State) (o : BitVec 13) (v : Word) (strb : BitVec 4) (rest : List Turn), s.busy = true → 0x1000 ≤ o.toNat →
    step { s with turns := .read o :: rest } =
      .next { s with turns := rest, rdata := some 0x00000000#32, bufConf := true } ∧
    step { s with turns := .write o v strb :: rest } = .next { s with turns := rest, bufConf := true }

/-- R103-R109, R105, R210: a register read returns the register's word with reserved bits 0 and changes nothing. -/
def Obligations.RegisterReads : Prop :=
  ∀ (s : State) (rest : List Turn),
    let reads := fun (o : BitVec 13) (w : Word) =>
      step { s with turns := .read o :: rest } = .next { s with turns := rest, rdata := some w }
    reads 0x000 0x45524301#32 ∧
    reads 0x004 (BitVec.ofNat 32 (s.degenChk.toNat + 2 * s.irqEn.toNat)) ∧
    reads 0x008 (BitVec.ofNat 32 (s.busy.toNat + 2 * s.done.toNat + 4 * s.cmdOvr.toNat + 8 * s.bufConf.toNat
      + 2 ^ 8 * s.errcode.code.toNat + 2 ^ 16 * s.poly.pstate.code.toNat + 2 ^ 18 * s.poly.pupd.toNat
      + 2 ^ 24 * s.lastop.toNat)) ∧
    reads 0x00C s.cmd ∧
    reads 0x010 (BitVec.ofNat 32 s.src[0].addr.toNat) ∧ reads 0x014 (BitVec.ofNat 32 s.src[0].len.toNat) ∧
    reads 0x018 (BitVec.ofNat 32 s.src[1].addr.toNat) ∧ reads 0x01C (BitVec.ofNat 32 s.src[1].len.toNat) ∧
    reads 0x020 (BitVec.ofNat 32 s.src[2].addr.toNat) ∧ reads 0x024 (BitVec.ofNat 32 s.src[2].len.toNat) ∧
    reads 0x028 (BitVec.ofNat 32 s.dst.toNat)

/-- R106, R207: a STATUS write clears each W1C bit written as 1 in strobed byte 0, and changes nothing else. -/
def Obligations.StatusWriteClears : Prop :=
  ∀ (s : State) (v : Word) (strb : BitVec 4) (rest : List Turn),
    step { s with turns := .write 0x008#13 v strb :: rest } = .next { s with
      turns := rest
      done := s.done && !(strb.getLsbD 0 && v.getLsbD 1)
      cmdOvr := s.cmdOvr && !(strb.getLsbD 0 && v.getLsbD 2)
      bufConf := s.bufConf && !(strb.getLsbD 0 && v.getLsbD 3) }

/-- R105, R207, R810: a CTRL write that is no soft reset writes DEGEN_CHK and IRQ_EN if byte 0 is strobed, and nothing else:
LAT.degen of a command in flight stays. -/
def Obligations.CtrlWrite : Prop :=
  ∀ (s : State) (v : Word) (strb : BitVec 4) (rest : List Turn), ¬ (strb.getLsbD 3 = true ∧ v.getLsbD 31 = true) →
    step { s with turns := .write 0x004#13 v strb :: rest } = .next { s with
      turns := rest
      degenChk := if strb.getLsbD 0 then v.getLsbD 0 else s.degenChk
      irqEn := if strb.getLsbD 0 then v.getLsbD 1 else s.irqEn }

/-- R108, R109, R207, R1023: descriptor writes, at any time, take the strobed bytes of the live bits and change nothing else;
LAT keeps its values. -/
def Obligations.DescriptorWrites : Prop :=
  ∀ (s : State) (v : Word) (strb : BitVec 4) (rest : List Turn),
    let mixed := fun (old : Nat) => BitVec.ofNat 32
      (∑ j ∈ Finset.range 4, (if strb.getLsbD j then v.toNat else old) / 2 ^ (8 * j) % 2 ^ 8 * 2 ^ (8 * j))
    (∀ k : Fin 3,
      step { s with turns := .write (BitVec.ofNat 13 (0x010 + 8 * k.val)) v strb :: rest } = .next { s with
        turns := rest
        src := s.src.set k { s.src[k] with addr := (mixed s.src[k].addr.toNat).setWidth 12 } } ∧
      step { s with turns := .write (BitVec.ofNat 13 (0x014 + 8 * k.val)) v strb :: rest } = .next { s with
        turns := rest
        src := s.src.set k { s.src[k] with len := (mixed s.src[k].len.toNat).setWidth 13 } }) ∧
    step { s with turns := .write 0x028#13 v strb :: rest } = .next { s with
      turns := rest, dst := (mixed s.dst.toNat).setWidth 12 }

/-- R1003, R1004, R1001: a soft reset returns every register but ID and all of P to reset values, aborts a command in flight,
and leaves every BUF byte outside that command's destination (every byte, if it has none or the block is idle). That an illegal
word in flight has no destination, so that its abort leaves every byte, is the model's choice (log 19). -/
def Obligations.SoftResetClears : Prop :=
  ∀ (s : State) (v : Word) (strb : BitVec 4) (rest : List Turn), s.buf.wf = true →
    strb.getLsbD 3 = true → v.getLsbD 31 = true →
    ∃ t : State, step { s with turns := .write 0x004#13 v strb :: rest } = .next t ∧
      t.degenChk = false ∧ t.irqEn = false ∧ t.statusWord = 0x00000000#32 ∧ t.cmd = 0x00000000#32 ∧
      (∀ k : Fin 3, t.src[k].addr = 0#12 ∧ t.src[k].len = 0#13) ∧ t.dst = 0#12 ∧
      t.poly = { pstate := .idle, pupd := false, pr := 0#128, ps := 0#128, pacc := 0, ptlen := 0,
                 ptail := Vector.replicate 15 0#8 } ∧
      t.irq = false ∧
      ∀ a : Nat,
        (∀ i : Instr, s.busy = true → decode s.lat.word = .ok i →
          a < s.lat.dst.toNat ∨ s.lat.dst.toNat + outlen i ≤ a) →
        t.buf.read a = s.buf.read a

/-- R1001, R103, R1000: the power-on values, as the host reads them, and of P; from the reset state and from the power-on turn in
any state, which leaves P_DH (R601, R9). BUF holds the bytes the turn brings (BUF_INIT, R1002; in `State.reset` zeros: the
model's choice, log 1). -/
def Obligations.PowerOnValues : Prop :=
  let values := fun (t : State) =>
    regRead .id t = 0x45524301#32 ∧ regRead .ctrl t = 0x00000000#32 ∧ regRead .status t = 0x00000000#32 ∧
    regRead .cmd t = 0x00000000#32 ∧
    (∀ k : Fin 3, regRead (.srcAddr k) t = 0x00000000#32 ∧ regRead (.srcLen k) t = 0x00000000#32) ∧
    regRead .dstAddr t = 0x00000000#32 ∧ t.irq = false ∧
    t.poly = { pstate := .idle, pupd := false, pr := 0#128, ps := 0#128, pacc := 0, ptlen := 0,
               ptail := Vector.replicate 15 0#8 }
  values State.reset ∧ State.reset.pDh = Config.pDh ∧
  ∀ (s : State) (init : List Byte) (rest : List Turn),
    ∃ t : State, step { s with turns := .powerOn init :: rest } = .next t ∧ values t ∧ t.pDh = s.pDh ∧
      ∀ a : Nat, a < 4096 → a < init.length → t.buf.read a = init.getD a 0x00#8

/-- R912, R913: the interrupt line; after a completion, of a legal word or not, it is IRQ_EN; each way of R913 by which it
falls; and it rises only by a completion or a CTRL write that sets IRQ_EN, and falls only by the ways of R913. -/
def Obligations.InterruptLine : Prop :=
  (∀ s : State, s.irq = (s.irqEn && s.done)) ∧
  (∀ (i : Instr) (s : State), ∃ t, exec i s = .next t ∧ t.irq = s.irqEn) ∧
  (∀ s : State, EngineMoves s → ∃ t, step s = .next t ∧ t.irq = s.irqEn) ∧
  (∀ (s : State) (v : Word) (strb : BitVec 4) (init : List Byte) (rest : List Turn),
    (strb.getLsbD 0 = true → v.getLsbD 1 = true →
      ∃ t, step { s with turns := .write 0x008#13 v strb :: rest } = .next t ∧ t.irq = false) ∧
    (s.busy = false →
      ∃ t, step { s with turns := .write 0x00C#13 v 0b1111#4 :: rest } = .next t ∧ t.irq = false) ∧
    (strb.getLsbD 0 = true → v.getLsbD 1 = false → ¬ (strb.getLsbD 3 = true ∧ v.getLsbD 31 = true) →
      ∃ t, step { s with turns := .write 0x004#13 v strb :: rest } = .next t ∧ t.irq = false ∧ t.done = s.done) ∧
    (strb.getLsbD 0 = true → v.getLsbD 1 = true → ¬ (strb.getLsbD 3 = true ∧ v.getLsbD 31 = true) →
      ∃ t, step { s with turns := .write 0x004#13 v strb :: rest } = .next t ∧ t.irq = s.done) ∧
    (strb.getLsbD 3 = true → v.getLsbD 31 = true →
      ∃ t, step { s with turns := .write 0x004#13 v strb :: rest } = .next t ∧ t.irq = false) ∧
    ∃ t, step { s with turns := .powerOn init :: rest } = .next t ∧ t.irq = false) ∧
  ∀ s t : State, step s = .next t →
    (s.irq = false → t.irq = true →
      (EngineMoves s ∧ s.irqEn = true) ∨ (s.done = true ∧
        HostWrites s 1 fun v strb => strb.getLsbD 0 = true ∧ v.getLsbD 1 = true)) ∧
    (s.irq = true → t.irq = false →
      ClearsStatusBit s 1 ∨ IssuesCommand s ∨ SoftResets s ∨ PowersOn s ∨
        HostWrites s 1 fun v strb => strb.getLsbD 0 = true ∧ v.getLsbD 1 = false)

/-- R807, R212, R131: while a command is in flight, no host access but a soft reset changes BUF, P, LAT or BUSY. -/
def Obligations.BusyCommandUndisturbed : Prop :=
  ∀ (s : State) (rest : List Turn), s.busy = true →
    (∀ o : BitVec 13, ∃ t, step { s with turns := .read o :: rest } = .next t ∧
      t.buf = s.buf ∧ t.poly = s.poly ∧ t.lat = s.lat ∧ t.busy = true) ∧
    (∀ (o : BitVec 13) (v : Word) (strb : BitVec 4),
      ¬ (o.toNat / 4 = 1 ∧ strb.getLsbD 3 = true ∧ v.getLsbD 31 = true) →
      ∃ t, step { s with turns := .write o v strb :: rest } = .next t ∧
        t.buf = s.buf ∧ t.poly = s.poly ∧ t.lat = s.lat ∧ t.busy = true)

/-- R313: the writes a well-formed command line expands to, made on an idle block, issue its command with its operands; the
descriptors it does not name keep their values. -/
def Obligations.CommandLineIssues : Prop :=
  ∀ (s : State) (c : CommandLine), c.wf = true → s.busy = false →
    ∃ t : State,
      Sys2Proof.core.run (HostProgram.expand c).length { s with turns := HostProgram.expand c } = .next t ∧
      t.turns = [] ∧ t.busy = true ∧ t.cmd = encode c.instr ∧ t.lat.word = encode c.instr ∧ t.lat.degen = s.degenChk ∧
      (∀ (k : Fin 3) (o : SourceOperand), c.sources[k.val]? = some o → t.srcAddr k = o.addr ∧ t.srcLen k = o.len) ∧
      (∀ k : Fin 3, c.sources[k.val]? = none → t.lat.src[k] = s.src[k]) ∧
      t.lat.dst = (match c.dst with
        | some d => BitVec.ofNat 12 d
        | none => s.dst) ∧
      t.buf = s.buf ∧ t.poly = s.poly

/-- R312: on an idle block `WRB a, v` stores exactly the bytes of `v` at BUF[a..] and changes nothing else, and `RDB a, n`
gives the host exactly BUF[a .. a+n−1] and changes no state of the block. -/
def Obligations.WrbStoresRdbReads : Prop :=
  (∀ (s : State) (a : Nat) (v : List Byte), s.busy = false → s.buf.wf = true → a + v.length ≤ 4096 →
    ∃ m : Memory,
      Sys2Proof.core.run (HostProgram.wrb a v).length { s with turns := HostProgram.wrb a v } =
        .next { s with turns := [], buf := m } ∧
      ∀ b : Nat, m.read b = if a ≤ b ∧ b < a + v.length then v.getD (b - a) 0x00#8 else s.buf.read b) ∧
  ∀ (s : State) (a n : Nat), s.busy = false → a + n ≤ 4096 →
    HostProgram.rdbBytes a n (HostProgram.returned (HostProgram.rdb a n).length { s with turns := HostProgram.rdb a n }) =
      s.buf.readBytes a n ∧
    ∃ w : Option Word,
      Sys2Proof.core.run (HostProgram.rdb a n).length { s with turns := HostProgram.rdb a n } =
        .next { s with turns := [], rdata := w }

/-! ### Steps and runs -/

/-- R802, R804, R308: when the engine is to move and a command is in flight, the step is `exec i` for the command `i` the
latched word decodes to (also when no turn is left: the model's choice, log 2); an illegal word completes with
ILLEGAL_CMD, and no BUF byte and no field of P changes. -/
def Obligations.StepRunsDecodedCommand : Prop :=
  ∀ s : State, s.busy = true →
    (∀ i : Instr, decode s.lat.word = .ok i →
      (∀ rest : List Turn, s.turns = .engine :: rest → step s = exec i { s with turns := rest }) ∧
      (s.turns = [] → step s = exec i s)) ∧
    ((fieldsOf s.lat.word).wf = false → ∀ rest : List Turn, s.turns = .engine :: rest →
      step s = .next { s with
        turns := rest, errcode := .illegalCmd, lastop := s.lat.word.extractLsb' 0 8, busy := false, done := true })

/-- R808: every issued command completes: once the turns are played and the engine has moved, nothing is in flight (the
length of `turns` is the model's input, and what happens when it is empty the model's choice, log 2). -/
def Obligations.EveryCommandCompletes : Prop :=
  ∀ s : State, ∃ t : State, Sys2Proof.core.run (s.turns.length + 1) s = .next t ∧ t.busy = false ∧ t.turns = []

/-- The invariant holds at reset and at every power-on of a machine with any P_DH that R601 admits (R123, R1001). -/
def Obligations.InvariantAtReset : Prop :=
  State.reset.inv = true ∧
  ∀ (pDh : Nat) (init : List Byte), pDh % 2 = 1 → 2 ^ 2047 ≤ pDh → pDh < 2 ^ 2048 →
    (State.powerOn pDh init).inv = true

/-- R123, R121, R801, R803: every step keeps the invariant `State.inv`. -/
def Obligations.StepKeepsInvariant : Prop :=
  ∀ s t : State, s.inv = true → step s = .next t → t.inv = true

/-- R900, R214, R13: no step of any run from any state stops with a fault or a refusal; every MemRead and MemWrite a command
makes lies inside BUF. -/
def Obligations.EveryRunIsSafe : Prop := ∀ s : State, SafeRun s

/-- R121, R130, R916: what the host can see never depends on PR, PS, PACC, PTLEN or PTAIL, except through the completion of a
P_TAG: two states that agree on all the rest still agree on it after every step but that one. -/
def Obligations.HiddenPolyStateUnobservable : Prop :=
  ∀ s t : State, s.visible = t.visible → ¬ (EngineMoves s ∧ decode s.lat.word = .ok .pTag) →
    ∃ s' t' : State, step s = .next s' ∧ step t = .next t' ∧ s'.visible = t'.visible

/-- R131: LAT is read only by the completion: while nothing is in flight, a step does the same whatever LAT holds (so the
value chosen for LAT at reset, log 6, cannot be seen). -/
def Obligations.LatchUnreadWhileIdle : Prop :=
  ∀ (s : State) (l : Latch), s.busy = false →
    ∃ (t : State) (l' : Latch), step s = .next t ∧ step { s with lat := l } = .next { t with lat := l' } ∧
      (t.busy = true → l' = t.lat)

/-- R111, R706, R807, R216, R212: only these events write the state. P changes by a Poly1305 command that succeeds, by a soft
reset or at power-on; BUF by a command with a result that succeeds, by a host write to the window of an idle block, by a soft
reset that aborts a command, or at power-on; BUSY rises by an issue and falls by a completion or a reset; DONE rises by a
completion and falls by a 1 written to it, by an issue or by a reset; CMD_OVR rises by a full CMD write while BUSY = 1 (R803),
BUF_CONF by an access to the window while BUSY = 1 (R212), and each falls by a 1 written to it (R106) or by a reset; P_DH never
changes (R9). -/
def Obligations.OnlyTheseEventsWriteState : Prop :=
  ∀ s t : State, step s = .next t →
    (t.poly ≠ s.poly → PowersOn s ∨ SoftResets s ∨ (EngineMoves s ∧ t.errcode = .ok ∧ ∃ i : Instr,
      decode s.lat.word = .ok i ∧ i ∈ [Instr.pInit, .pUpdate false, .pUpdate true, .pBlock, .pTag])) ∧
    (t.buf ≠ s.buf → PowersOn s ∨ (SoftResets s ∧ s.busy = true) ∨
      (EngineMoves s ∧ t.errcode = .ok ∧ ∃ i : Instr, decode s.lat.word = .ok i ∧ 0 < outlen i) ∨
      (s.busy = false ∧ ∃ (o : BitVec 13) (v : Word) (strb : BitVec 4),
        s.turns.head? = some (.write o v strb) ∧ 0x1000 ≤ o.toNat)) ∧
    (s.busy = false → t.busy = true → IssuesCommand s) ∧
    (s.busy = true → t.busy = false → PowersOn s ∨ SoftResets s ∨ EngineMoves s) ∧
    (s.done = false → t.done = true → EngineMoves s) ∧
    (s.done = true → t.done = false → PowersOn s ∨ SoftResets s ∨ IssuesCommand s ∨ ClearsStatusBit s 1) ∧
    (s.cmdOvr = false → t.cmdOvr = true → s.busy = true ∧ HostWrites s 3 fun _ strb => strb = 0b1111#4) ∧
    (s.cmdOvr = true → t.cmdOvr = false → PowersOn s ∨ SoftResets s ∨ ClearsStatusBit s 2) ∧
    (s.bufConf = false → t.bufConf = true → s.busy = true ∧ AccessesWindow s) ∧
    (s.bufConf = true → t.bufConf = false → PowersOn s ∨ SoftResets s ∨ ClearsStatusBit s 3) ∧
    t.pDh = s.pDh
end

