-- ==== Sys2Proof/Laws/Codec.lean ====
section
/-! SUPPORT. Lengths and bounds of the codec (R401, R402, R405) and of clamping (R503). -/

namespace Sys2Proof.Machine

@[simp] theorem unpack_nil : unpack [] = 0 := rfl

@[simp] theorem pack_zero (n : Nat) : pack 0 n = [] := rfl

/-- `pack_w` gives exactly `w` bytes (R402). -/
@[simp] theorem length_pack (w n : Nat) : (pack w n).length = w := by
  induction w generalizing n with
  | zero => rfl
  | succ w ih => simp [pack, ih]

/-- A pair takes 64 bytes (R405). -/
@[simp] theorem length_packPair (q : Pair) : (packPair q).length = 64 := by simp [packPair]

/-- Clamping keeps the length (R503). -/
@[simp] theorem length_clampBytes (b : List Byte) : (clampBytes b).length = b.length := by simp [clampBytes]

/-- The integer of `w` bytes is below `2^(8w)` (R401). -/
theorem unpack_lt (b : List Byte) : unpack b < 2 ^ (8 * b.length) := by
  induction b with
  | nil => simp
  | cons x xs ih =>
    have hx := x.isLt
    have e : 2 ^ (8 * (x :: xs).length) = 2 ^ 8 * 2 ^ (8 * xs.length) := by
      rw [List.length_cons, ← Nat.pow_add]
      congr 1
      omega
    rw [e, unpack]
    omega

/-- The integer of a concatenation: the second string stands above the first (R401). -/
theorem unpack_append (b c : List Byte) : unpack (b ++ c) = unpack b + 2 ^ (8 * b.length) * unpack c := by
  induction b with
  | nil => simp
  | cons x xs ih =>
    have e : 2 ^ (8 * (x :: xs).length) = 2 ^ 8 * 2 ^ (8 * xs.length) := by
      rw [List.length_cons, ← Nat.pow_add]
      congr 1
      omega
    rw [List.cons_append, unpack, unpack, ih, e, Nat.mul_add]
    ring

end Sys2Proof.Machine
end

