-- ==== Sys2Proof/Laws/Field.lean ====
section
/-! SUPPORT. The coordinates of the point formulas, one lemma each, and the bound of a residue mod p (R501, R504, R505). -/

namespace Sys2Proof.Machine

@[simp] theorem padd_x (n m d : Pair) :
    (padd n m d).x = modP (4 * ((m.x : Int) * n.x - (m.z : Int) * n.z) ^ 2 * d.z) := rfl

@[simp] theorem padd_z (n m d : Pair) :
    (padd n m d).z = modP (4 * ((m.x : Int) * n.z - (m.z : Int) * n.x) ^ 2 * d.x) := rfl

@[simp] theorem pdbl_x (n : Pair) : (pdbl n).x = modP (((n.x : Int) ^ 2 - (n.z : Int) ^ 2) ^ 2) := rfl

@[simp] theorem pdbl_z (n : Pair) : (pdbl n).z =
    modP (4 * (n.x : Int) * n.z * ((n.x : Int) ^ 2 + (Config.aCurve : Int) * n.x * n.z + (n.z : Int) ^ 2)) := rfl

@[simp] theorem ladderBase_x (u : Nat) : (ladderBase u).x = u % Config.p25519 := rfl

@[simp] theorem ladderBase_z (u : Nat) : (ladderBase u).z = 1 := rfl

/-- A residue is the mathematical one (R10). -/
theorem natCast_modP (v : Int) : ((modP v : Nat) : Int) = v % (Config.p25519 : Int) :=
  Int.toNat_of_nonneg (Int.emod_nonneg _ (by norm_num [Config.p25519]))

/-- A residue lies in [0, p) (R501). -/
theorem modP_lt (v : Int) : modP v < Config.p25519 := by
  have h := natCast_modP v
  have hpos : (0 : Int) < (Config.p25519 : Int) := by norm_num [Config.p25519]
  have : ((modP v : Nat) : Int) < (Config.p25519 : Int) := by
    rw [h]
    exact Int.emod_lt_of_pos _ hpos
  exact_mod_cast this

end Sys2Proof.Machine
end

