-- ==== Sys2Proof/Laws/Memory.lean ====
section
/-! SUPPORT. What the memory operations do: read after write, what a write leaves alone, and that every operation keeps the
canonical form. -/

namespace Sys2Proof.Machine

@[simp] theorem Memory.read_nil (a : Nat) : Memory.read [] a = Config.unlistedByte := rfl

@[simp] theorem Memory.readBytes_zero (m : Memory) (a : Nat) : m.readBytes a 0 = [] := rfl

@[simp] theorem Memory.writeBytes_nil (m : Memory) (a : Nat) : m.writeBytes a [] = m := rfl

/-- A lower bound on the addresses may be lowered. -/
theorem Memory.sortedFrom_mono {m : Memory} {lo lo' : Nat} (h : m.sortedFrom lo = true) (hl : lo' ≤ lo) :
    m.sortedFrom lo' = true := by
  cases m with
  | nil => rfl
  | cons c m =>
    obtain ⟨b, w⟩ := c
    simp only [Memory.sortedFrom, Bool.and_eq_true, decide_eq_true_eq] at h ⊢
    exact ⟨by omega, h.2⟩

/-- An address below every listed one reads as the unlisted byte. -/
theorem Memory.read_below {m : Memory} {lo a : Nat} (h : m.sortedFrom lo = true) (ha : a < lo) :
    m.read a = Config.unlistedByte := by
  induction m generalizing lo with
  | nil => rfl
  | cons c m ih =>
    obtain ⟨b, w⟩ := c
    simp only [Memory.sortedFrom, Bool.and_eq_true, decide_eq_true_eq] at h
    have hne : a ≠ b := by omega
    simp only [Memory.read, hne, if_false]
    exact ih h.2 (by omega)

/-- A sorted memory after a write reads the written byte there and its old byte elsewhere. -/
theorem Memory.read_write_of_sorted {m : Memory} {lo : Nat} (h : m.sortedFrom lo = true) (a b : Nat) (v : Byte) :
    (m.write a v).read b = if b = a then v else m.read b := by
  induction m generalizing lo with
  | nil =>
    by_cases hv : v = Config.unlistedByte <;> by_cases hb : b = a <;> simp [Memory.write, Memory.read, hv, hb]
  | cons c m ih =>
    obtain ⟨k, w⟩ := c
    simp only [Memory.sortedFrom, Bool.and_eq_true, decide_eq_true_eq] at h
    have hlow : ∀ x, x ≤ k → Memory.read m x = Config.unlistedByte := fun x hx => Memory.read_below h.2 (by omega)
    rcases Nat.lt_trichotomy a k with hlt | heq | hgt
    · by_cases hv : v = Config.unlistedByte
      · by_cases hb : b = a
        · subst hb
          have : b ≠ k := by omega
          simp [Memory.write, Memory.read, hlt, hv, this, hlow b (by omega)]
        · simp [Memory.write, Memory.read, hlt, hv, hb]
      · by_cases hb : b = a <;> simp [Memory.write, Memory.read, hlt, hv, hb]
    · subst heq
      by_cases hv : v = Config.unlistedByte
      · by_cases hb : b = a
        · subst hb
          simp [Memory.write, hv, hlow b (by omega)]
        · simp [Memory.write, Memory.read, hv, hb]
      · by_cases hb : b = a <;> simp [Memory.write, Memory.read, hv, hb]
    · have h1 : ¬ a < k := by omega
      have h2 : a ≠ k := by omega
      by_cases hbk : b = k
      · have : b ≠ a := by omega
        simp [Memory.write, Memory.read, h1, h2, hbk]
        omega
      · simp [Memory.write, Memory.read, h1, h2, hbk, ih h.2]

theorem Memory.wf_iff (m : Memory) : m.wf = true ↔
    m.sortedFrom 0 = true ∧ ∀ c ∈ m, c.1 < Config.bufSize ∧ c.2 ≠ Config.unlistedByte := by
  simp [Memory.wf]

/-- Read after write (R218, R13). -/
theorem Memory.read_write {m : Memory} (h : m.wf = true) (a b : Nat) (v : Byte) :
    (m.write a v).read b = if b = a then v else m.read b :=
  Memory.read_write_of_sorted ((Memory.wf_iff m).1 h).1 a b v

theorem Memory.sortedFrom_write {m : Memory} {lo a : Nat} (h : m.sortedFrom lo = true) (ha : lo ≤ a) (v : Byte) :
    (m.write a v).sortedFrom lo = true := by
  induction m generalizing lo with
  | nil => by_cases hv : v = Config.unlistedByte <;> simp [Memory.write, Memory.sortedFrom, hv, ha]
  | cons c m ih =>
    obtain ⟨k, w⟩ := c
    have hm := h
    simp only [Memory.sortedFrom, Bool.and_eq_true, decide_eq_true_eq] at h
    rcases Nat.lt_trichotomy a k with hlt | heq | hgt
    · by_cases hv : v = Config.unlistedByte
      · simpa [Memory.write, hlt, hv] using hm
      · simp [Memory.write, Memory.sortedFrom, hlt, hv, h.2]
        omega
    · subst heq
      by_cases hv : v = Config.unlistedByte
      · simpa [Memory.write, hv] using Memory.sortedFrom_mono h.2 (by omega)
      · simp [Memory.write, Memory.sortedFrom, hv, h.1, h.2]
    · have h1 : ¬ a < k := by omega
      have h2 : a ≠ k := by omega
      simp [Memory.write, Memory.sortedFrom, h1, h2, h.1, ih h.2 (by omega)]

theorem Memory.mem_write {m : Memory} {a : Nat} {v : Byte} {c : Host.Cell} (h : c ∈ m.write a v) :
    c ∈ m ∨ (c = (a, v) ∧ v ≠ Config.unlistedByte) := by
  induction m with
  | nil =>
    by_cases hv : v = Config.unlistedByte
    · simp [Memory.write, hv] at h
    · simp [Memory.write, hv] at h
      exact .inr ⟨h, hv⟩
  | cons d m ih =>
    obtain ⟨k, w⟩ := d
    simp only [Memory.write] at h
    split at h
    · split at h
      · exact .inl h
      · rename_i hv
        rcases List.mem_cons.1 h with h | h
        · exact .inr ⟨h, hv⟩
        · exact .inl h
    · split at h
      · split at h
        · exact .inl (List.mem_cons_of_mem _ h)
        · rename_i hv
          rcases List.mem_cons.1 h with h | h
          · exact .inr ⟨h, hv⟩
          · exact .inl (List.mem_cons_of_mem _ h)
      · rcases List.mem_cons.1 h with h | h
        · exact .inl (by simp [h])
        · rcases ih h with h | h
          · exact .inl (List.mem_cons_of_mem _ h)
          · exact .inr h

/-- A write inside BUF keeps the canonical form. -/
theorem Memory.wf_write {m : Memory} (h : m.wf = true) {a : Nat} (ha : a < Config.bufSize) (v : Byte) :
    (m.write a v).wf = true := by
  rw [Memory.wf_iff] at h ⊢
  refine ⟨Memory.sortedFrom_write h.1 (by omega) v, fun c hc => ?_⟩
  rcases Memory.mem_write hc with hc | ⟨rfl, hv⟩
  · exact h.2 c hc
  · exact ⟨ha, hv⟩

theorem Memory.wf_nil : Memory.wf [] = true := rfl

/-- A byte string written inside BUF keeps the canonical form. -/
theorem Memory.wf_writeBytes {m : Memory} (h : m.wf = true) {a : Nat} {v : List Byte}
    (ha : a + v.length ≤ Config.bufSize) : (m.writeBytes a v).wf = true := by
  induction v generalizing m a with
  | nil => exact h
  | cons b bs ih =>
    simp only [List.length_cons] at ha
    exact ih (Memory.wf_write h (by omega) b) (by omega)

/-- What a written byte string reads as: its bytes inside, the old bytes outside (R13, R216). -/
theorem Memory.read_writeBytes {m : Memory} (h : m.wf = true) {a : Nat} {v : List Byte}
    (ha : a + v.length ≤ Config.bufSize) (b : Nat) :
    (m.writeBytes a v).read b = if a ≤ b ∧ b < a + v.length then v.getD (b - a) 0#8 else m.read b := by
  induction v generalizing m a with
  | nil =>
    have : ¬ (a ≤ b ∧ b < a + ([] : List Byte).length) := by simp only [List.length_nil]; omega
    simp only [this, if_false, Memory.writeBytes_nil]
  | cons x xs ih =>
    simp only [List.length_cons] at ha
    simp only [Memory.writeBytes]
    rw [ih (Memory.wf_write h (by omega) x) (by omega), Memory.read_write h]
    rcases Nat.lt_trichotomy b a with hlt | heq | hgt
    · have h1 : ¬ (a + 1 ≤ b ∧ b < a + 1 + xs.length) := by omega
      have h2 : ¬ (a ≤ b ∧ b < a + (x :: xs).length) := by omega
      have h3 : b ≠ a := by omega
      simp only [h1, h2, h3, if_false]
    · subst heq
      have h1 : ¬ (b + 1 ≤ b ∧ b < b + 1 + xs.length) := by omega
      have h2 : b ≤ b ∧ b < b + (x :: xs).length := by simp only [List.length_cons]; omega
      simp only [h1, h2, if_false, if_true, Nat.sub_self, List.getD_cons_zero, and_self]
    · have h3 : b ≠ a := by omega
      by_cases hin : b < a + 1 + xs.length
      · have h1 : a + 1 ≤ b ∧ b < a + 1 + xs.length := by omega
        have h2 : a ≤ b ∧ b < a + (x :: xs).length := by simp only [List.length_cons]; omega
        have h4 : b - a = (b - (a + 1)) + 1 := by omega
        simp only [h1, h2, if_true, and_self]
        rw [h4, List.getD_cons_succ]
      · have h1 : ¬ (a + 1 ≤ b ∧ b < a + 1 + xs.length) := by omega
        have h2 : ¬ (a ≤ b ∧ b < a + (x :: xs).length) := by simp only [List.length_cons]; omega
        simp only [h1, h2, h3, if_false]

/-- A byte string written outside `b` leaves the byte at `b`, whatever the memory's form below. -/
theorem Memory.read_writeBytes_outside {m : Memory} {lo : Nat} (h : m.sortedFrom lo = true) {a b : Nat} {v : List Byte}
    (hlo : lo ≤ a) (hb : b < a ∨ a + v.length ≤ b) : (m.writeBytes a v).read b = m.read b := by
  induction v generalizing m a with
  | nil => rfl
  | cons x xs ih =>
    simp only [List.length_cons] at hb
    simp only [Memory.writeBytes]
    rw [ih (Memory.sortedFrom_write h hlo x) (by omega) (by omega), Memory.read_write_of_sorted h]
    have : b ≠ a := by omega
    simp only [this, if_false]

/-- The string read has the length asked for. -/
@[simp] theorem Memory.length_readBytes (m : Memory) (a n : Nat) : (m.readBytes a n).length = n := by
  induction n generalizing a with
  | zero => rfl
  | succ n ih => simp [Memory.readBytes, ih]

/-- Byte `i` of the string read. -/
theorem Memory.getD_readBytes (m : Memory) (a n i : Nat) (hi : i < n) : (m.readBytes a n).getD i 0#8 = m.read (a + i) := by
  induction n generalizing a i with
  | zero => omega
  | succ n ih =>
    cases i with
    | zero => rfl
    | succ i =>
      simp only [Memory.readBytes, List.getD_cons_succ]
      rw [ih (a + 1) i (by omega)]
      congr 1
      omega

/-- Two strings read in succession are one string. -/
theorem Memory.readBytes_add (m : Memory) (a n k : Nat) :
    m.readBytes a (n + k) = m.readBytes a n ++ m.readBytes (a + n) k := by
  induction n generalizing a with
  | zero => simp
  | succ n ih =>
    have : n + 1 + k = (n + k) + 1 := by omega
    rw [this, Memory.readBytes, Memory.readBytes, ih (a + 1), List.cons_append]
    congr 3
    omega

/-- The string written is the string read back. -/
theorem Memory.readBytes_writeBytes {m : Memory} (h : m.wf = true) {a : Nat} {v : List Byte}
    (ha : a + v.length ≤ Config.bufSize) : (m.writeBytes a v).readBytes a v.length = v := by
  apply List.ext_getElem (by simp)
  intro i h1 h2
  have e1 : ((m.writeBytes a v).readBytes a v.length)[i] = ((m.writeBytes a v).readBytes a v.length).getD i 0#8 := by
    rw [List.getD_eq_getElem _ _ h1]
  rw [e1, Memory.getD_readBytes _ _ _ _ h2, Memory.read_writeBytes h ha]
  have : a ≤ a + i ∧ a + i < a + v.length := by omega
  simp only [this, if_true, and_self, Nat.add_sub_cancel_left]
  exact List.getD_eq_getElem _ _ h2

/-- Power-on contents are in canonical form, whatever bytes arrive (R1002). -/
theorem Memory.wf_ofBytes (v : List Byte) : (Memory.ofBytes v).wf = true :=
  Memory.wf_writeBytes Memory.wf_nil (by simp only [List.length_take]; omega)

theorem wf_writeLane {m : Memory} (h : m.wf = true) {a : Nat} (v : Word) (strb : BitVec 4) {j : Nat}
    (ha : a + j < Config.bufSize) : (writeLane m a v strb j).wf = true := by
  unfold writeLane
  split
  · exact Memory.wf_write h ha _
  · exact h

/-- A bus write to the BUF window keeps the canonical form (R204). -/
theorem wf_writeWindow {m : Memory} (h : m.wf = true) {a : Nat} (v : Word) (strb : BitVec 4)
    (ha : a + 3 < Config.bufSize) : (writeWindow m a v strb).wf = true :=
  wf_writeLane (wf_writeLane (wf_writeLane (wf_writeLane h v strb (by omega)) v strb (by omega)) v strb (by omega)) v strb ha

/-- The free bytes of an aborted command keep the canonical form (R1004). -/
theorem wf_scrambleBytes {m : Memory} (h : m.wf = true) (a c n : Nat) : (scrambleBytes m a c n).wf = true := by
  induction n generalizing m a c with
  | zero => exact h
  | succ n ih =>
    simp only [scrambleBytes]
    apply ih
    split
    · exact Memory.wf_write h (by assumption) _
    · exact h

/-- The free bytes of an aborted command touch no byte outside its destination (R1004). -/
theorem read_scrambleBytes_outside {m : Memory} {lo : Nat} (h : m.sortedFrom lo = true) {a b : Nat} (c n : Nat)
    (hlo : lo ≤ a) (hb : b < a ∨ a + n ≤ b) : (scrambleBytes m a c n).read b = m.read b := by
  induction n generalizing m a c with
  | zero => rfl
  | succ n ih =>
    simp only [scrambleBytes]
    split
    · rw [ih (Memory.sortedFrom_write h hlo _) _ (by omega) (by omega), Memory.read_write_of_sorted h]
      have : b ≠ a := by omega
      simp only [this, if_false]
    · exact ih h _ (by omega) (by omega)

end Sys2Proof.Machine
end

