-- ==== Sys2Proof/Laws/HostBus.lean ====
section
/-! SUPPORT. What the host bus operations do: the bits of a strobed write, the targets of offsets, the BUF window, and that an
access leaves the turns to come as they are. -/

namespace Sys2Proof.Machine

/-- A concatenation as a number. -/
theorem toNat_append_eq {n m : Nat} (x : BitVec n) (y : BitVec m) : (x ++ y).toNat = x.toNat * 2 ^ m + y.toNat := by
  rw [BitVec.toNat_append, Nat.shiftLeft_eq, Nat.mul_comm, Nat.two_pow_add_eq_or_of_lt y.isLt]

/-- Bit `i` of the strobe mask is the strobe of its byte lane (R202). -/
theorem getLsbD_strobeMask (strb : BitVec 4) {i : Nat} (hi : i < 32) :
    (strobeMask strb).getLsbD i = strb.getLsbD (i / 8) := by
  have lane : ∀ b k, k < 8 → (laneMask b).getLsbD k = b := by
    intro b k hk
    cases b <;> interval_cases k <;> rfl
  unfold strobeMask
  simp only [BitVec.getLsbD_append]
  by_cases h0 : i < 8
  · rw [if_pos h0, lane _ _ h0, show i / 8 = 0 by omega]
  · rw [if_neg h0]
    by_cases h1 : i < 16
    · rw [if_pos (by omega), lane _ _ (by omega), show i / 8 = 1 by omega]
    · rw [if_neg (by omega)]
      by_cases h2 : i < 24
      · rw [if_pos (by omega), lane _ _ (by omega), show i / 8 = 2 by omega]
      · rw [if_neg (by omega), lane _ _ (by omega), show i / 8 = 3 by omega]

/-- A register after a write: each bit from the new word if its byte is strobed, else as it was (R207). -/
theorem getLsbD_merge (old new : Word) (strb : BitVec 4) {i : Nat} (hi : i < 32) :
    (merge old new strb).getLsbD i = if strb.getLsbD (i / 8) then new.getLsbD i else old.getLsbD i := by
  unfold merge
  simp only [BitVec.getLsbD_or, BitVec.getLsbD_and, BitVec.getLsbD_not, getLsbD_strobeMask _ hi, hi]
  cases strb.getLsbD (i / 8) <;> simp

/-- A write with all four strobes replaces the word (R207). -/
theorem merge_full (old new : Word) : merge old new 0b1111#4 = new := by
  apply BitVec.eq_of_getLsbD_eq
  intro i hi
  have hs : (0b1111#4).getLsbD (i / 8) = true := by
    have hq : i / 8 < 4 := by omega
    generalize i / 8 = q at hq
    interval_cases q <;> rfl
  rw [getLsbD_merge _ _ _ hi, hs]
  rfl

/-- Offsets from 0x1000 on name the BUF window (R201, R203). -/
theorem busTarget_window {o : BitVec 13} (h : 0x1000 ≤ o.toNat) :
    busTarget o = .window (o.toNat / 4 * 4 - 0x1000) := by
  have : 0x1000 ≤ o.toNat / 4 * 4 := by omega
  simp [busTarget, this]

/-- A window address is a multiple of 4 inside BUF (R203, R110). -/
theorem busTarget_window_bound {o : BitVec 13} {a : Nat} (h : busTarget o = .window a) : a % 4 = 0 ∧ a < 4096 := by
  have hlt := o.isLt
  unfold busTarget at h
  simp only at h
  split at h
  · have e : o.toNat / 4 * 4 - 0x1000 = a := by injection h
    clear h
    omega
  · split at h <;> cases h

/-- The offsets that name CTRL (R103, R203). -/
theorem busTarget_ctrl {o : BitVec 13} (h : busTarget o = .reg .ctrl) : o.toNat / 4 = 1 := by
  unfold busTarget at h
  simp only at h
  split at h
  · cases h
  · split at h <;> first | omega | cases h

/-- The offsets that name STATUS (R103, R203). -/
theorem busTarget_status {o : BitVec 13} (h : busTarget o = .reg .status) : o.toNat / 4 = 2 := by
  unfold busTarget at h
  simp only at h
  split at h
  · cases h
  · split at h <;> first | omega | cases h

/-- The offsets that name CMD (R103, R203). -/
theorem busTarget_cmd {o : BitVec 13} (h : busTarget o = .reg .cmd) : o.toNat / 4 = 3 := by
  unfold busTarget at h
  simp only at h
  split at h
  · cases h
  · split at h <;> first | omega | cases h

/-- The BUF word as a number, little-endian (R204). -/
theorem toNat_windowWord (m : Memory) (a : Nat) : (windowWord m a).toNat =
    (m.read a).toNat + (m.read (a + 1)).toNat * 2 ^ 8 + (m.read (a + 2)).toNat * 2 ^ 16
      + (m.read (a + 3)).toNat * 2 ^ 24 := by
  unfold windowWord
  simp only [toNat_append_eq]
  omega

/-- One lane of a window write (R204). -/
theorem read_writeLane {m : Memory} (h : m.wf = true) (a : Nat) (v : Word) (strb : BitVec 4) (j b : Nat) :
    (writeLane m a v strb j).read b = if b = a + j ∧ strb.getLsbD j = true then wordByte v j else m.read b := by
  unfold writeLane
  split
  · rename_i hs
    rw [Memory.read_write h]
    simp [hs]
  · rename_i hs
    simp [hs]

/-- A host write leaves the turns to come as they are. -/
theorem turns_hostWrite (o : BitVec 13) (v : Word) (strb : BitVec 4) (s : State) :
    (hostWrite o v strb s).turns = s.turns := by
  unfold hostWrite
  cases busTarget o with
  | reserved => rfl
  | window a => simp only; split <;> rfl
  | reg r =>
    cases r with
    | ctrl => simp only [regWrite, writeCtrl]; split <;> rfl
    | cmd =>
      simp only [regWrite, writeCmd]
      split
      · rfl
      · split <;> rfl
    | _ => rfl

/-- A host read leaves the turns to come as they are. -/
theorem turns_hostRead (o : BitVec 13) (s : State) : (hostRead o s).turns = s.turns := by
  unfold hostRead
  cases busTarget o with
  | window a => simp only; split <;> rfl
  | _ => rfl

/-- A host write leaves the parameter P_DH as it is (R9). -/
theorem pDh_hostWrite (o : BitVec 13) (v : Word) (strb : BitVec 4) (s : State) : (hostWrite o v strb s).pDh = s.pDh := by
  unfold hostWrite
  cases busTarget o with
  | reserved => rfl
  | window a => simp only; split <;> rfl
  | reg r =>
    cases r with
    | ctrl => simp only [regWrite, writeCtrl]; split <;> rfl
    | cmd =>
      simp only [regWrite, writeCmd]
      split
      · rfl
      · split <;> rfl
    | _ => rfl

/-- A host read leaves the parameter P_DH as it is (R9). -/
theorem pDh_hostRead (o : BitVec 13) (s : State) : (hostRead o s).pDh = s.pDh := by
  unfold hostRead
  cases busTarget o with
  | window a => simp only; split <;> rfl
  | _ => rfl

end Sys2Proof.Machine
end

