-- ==== Sys2Proof/Laws/State.lean ====
section
/-! SUPPORT. One lemma per field of State for each named update of it, true by unfolding, for `simp`. -/

namespace Sys2Proof.Machine

/-! ### Common completion (R802). -/

@[simp] theorem State.completeWith_degenChk (e : ErrCode) (s : State) : (s.completeWith e).degenChk = s.degenChk := rfl

@[simp] theorem State.completeWith_irqEn (e : ErrCode) (s : State) : (s.completeWith e).irqEn = s.irqEn := rfl

@[simp] theorem State.completeWith_busy (e : ErrCode) (s : State) : (s.completeWith e).busy = false := rfl

@[simp] theorem State.completeWith_done (e : ErrCode) (s : State) : (s.completeWith e).done = true := rfl

@[simp] theorem State.completeWith_cmdOvr (e : ErrCode) (s : State) : (s.completeWith e).cmdOvr = s.cmdOvr := rfl

@[simp] theorem State.completeWith_bufConf (e : ErrCode) (s : State) : (s.completeWith e).bufConf = s.bufConf := rfl

@[simp] theorem State.completeWith_errcode (e : ErrCode) (s : State) : (s.completeWith e).errcode = e := rfl

@[simp] theorem State.completeWith_lastop (e : ErrCode) (s : State) : (s.completeWith e).lastop = s.lat.word.extractLsb' 0 8 := rfl

@[simp] theorem State.completeWith_cmd (e : ErrCode) (s : State) : (s.completeWith e).cmd = s.cmd := rfl

@[simp] theorem State.completeWith_src (e : ErrCode) (s : State) : (s.completeWith e).src = s.src := rfl

@[simp] theorem State.completeWith_dst (e : ErrCode) (s : State) : (s.completeWith e).dst = s.dst := rfl

@[simp] theorem State.completeWith_buf (e : ErrCode) (s : State) : (s.completeWith e).buf = s.buf := rfl

@[simp] theorem State.completeWith_poly (e : ErrCode) (s : State) : (s.completeWith e).poly = s.poly := rfl

@[simp] theorem State.completeWith_lat (e : ErrCode) (s : State) : (s.completeWith e).lat = s.lat := rfl

@[simp] theorem State.completeWith_pDh (e : ErrCode) (s : State) : (s.completeWith e).pDh = s.pDh := rfl

@[simp] theorem State.completeWith_turns (e : ErrCode) (s : State) : (s.completeWith e).turns = s.turns := rfl

@[simp] theorem State.completeWith_rdata (e : ErrCode) (s : State) : (s.completeWith e).rdata = s.rdata := rfl

@[simp] theorem State.completeWith_freeCount (e : ErrCode) (s : State) : (s.completeWith e).freeCount = s.freeCount := rfl

/-! ### Issue (R801). -/

@[simp] theorem State.issue_degenChk (w : Word) (s : State) : (s.issue w).degenChk = s.degenChk := rfl

@[simp] theorem State.issue_irqEn (w : Word) (s : State) : (s.issue w).irqEn = s.irqEn := rfl

@[simp] theorem State.issue_busy (w : Word) (s : State) : (s.issue w).busy = true := rfl

@[simp] theorem State.issue_done (w : Word) (s : State) : (s.issue w).done = false := rfl

@[simp] theorem State.issue_cmdOvr (w : Word) (s : State) : (s.issue w).cmdOvr = s.cmdOvr := rfl

@[simp] theorem State.issue_bufConf (w : Word) (s : State) : (s.issue w).bufConf = s.bufConf := rfl

@[simp] theorem State.issue_errcode (w : Word) (s : State) : (s.issue w).errcode = .ok := rfl

@[simp] theorem State.issue_lastop (w : Word) (s : State) : (s.issue w).lastop = s.lastop := rfl

@[simp] theorem State.issue_cmd (w : Word) (s : State) : (s.issue w).cmd = w := rfl

@[simp] theorem State.issue_src (w : Word) (s : State) : (s.issue w).src = s.src := rfl

@[simp] theorem State.issue_dst (w : Word) (s : State) : (s.issue w).dst = s.dst := rfl

@[simp] theorem State.issue_buf (w : Word) (s : State) : (s.issue w).buf = s.buf := rfl

@[simp] theorem State.issue_poly (w : Word) (s : State) : (s.issue w).poly = s.poly := rfl

@[simp] theorem State.issue_lat (w : Word) (s : State) : (s.issue w).lat = { word := w, src := s.src, dst := s.dst, degen := s.degenChk } := rfl

@[simp] theorem State.issue_pDh (w : Word) (s : State) : (s.issue w).pDh = s.pDh := rfl

@[simp] theorem State.issue_turns (w : Word) (s : State) : (s.issue w).turns = s.turns := rfl

@[simp] theorem State.issue_rdata (w : Word) (s : State) : (s.issue w).rdata = s.rdata := rfl

@[simp] theorem State.issue_freeCount (w : Word) (s : State) : (s.issue w).freeCount = s.freeCount := rfl

/-! ### Soft reset (R1001, R1003). -/

@[simp] theorem State.softReset_degenChk (s : State) : s.softReset.degenChk = false := rfl

@[simp] theorem State.softReset_irqEn (s : State) : s.softReset.irqEn = false := rfl

@[simp] theorem State.softReset_busy (s : State) : s.softReset.busy = false := rfl

@[simp] theorem State.softReset_done (s : State) : s.softReset.done = false := rfl

@[simp] theorem State.softReset_cmdOvr (s : State) : s.softReset.cmdOvr = false := rfl

@[simp] theorem State.softReset_bufConf (s : State) : s.softReset.bufConf = false := rfl

@[simp] theorem State.softReset_errcode (s : State) : s.softReset.errcode = .ok := rfl

@[simp] theorem State.softReset_lastop (s : State) : s.softReset.lastop = 0x00#8 := rfl

@[simp] theorem State.softReset_cmd (s : State) : s.softReset.cmd = 0x00000000#32 := rfl

@[simp] theorem State.softReset_src (s : State) : s.softReset.src = Vector.replicate 3 Descriptor.zero := rfl

@[simp] theorem State.softReset_dst (s : State) : s.softReset.dst = 0#12 := rfl

@[simp] theorem State.softReset_buf (s : State) : s.softReset.buf = scrambleBytes s.buf s.lat.dst.toNat s.freeCount (if s.busy then abortLength s.lat.word else 0) := rfl

@[simp] theorem State.softReset_poly (s : State) : s.softReset.poly = Poly.zero .idle := rfl

@[simp] theorem State.softReset_lat (s : State) : s.softReset.lat = Latch.none := rfl

@[simp] theorem State.softReset_pDh (s : State) : s.softReset.pDh = s.pDh := rfl

@[simp] theorem State.softReset_turns (s : State) : s.softReset.turns = s.turns := rfl

@[simp] theorem State.softReset_rdata (s : State) : s.softReset.rdata = s.rdata := rfl

@[simp] theorem State.softReset_freeCount (s : State) : s.softReset.freeCount = s.freeCount + (if s.busy then abortLength s.lat.word else 0) := rfl

/-! ### Power-on reset (R1001). -/

@[simp] theorem State.powerOn_degenChk (pDh : Nat) (init : List Byte) : (State.powerOn pDh init).degenChk = false := rfl

@[simp] theorem State.powerOn_irqEn (pDh : Nat) (init : List Byte) : (State.powerOn pDh init).irqEn = false := rfl

@[simp] theorem State.powerOn_busy (pDh : Nat) (init : List Byte) : (State.powerOn pDh init).busy = false := rfl

@[simp] theorem State.powerOn_done (pDh : Nat) (init : List Byte) : (State.powerOn pDh init).done = false := rfl

@[simp] theorem State.powerOn_cmdOvr (pDh : Nat) (init : List Byte) : (State.powerOn pDh init).cmdOvr = false := rfl

@[simp] theorem State.powerOn_bufConf (pDh : Nat) (init : List Byte) : (State.powerOn pDh init).bufConf = false := rfl

@[simp] theorem State.powerOn_errcode (pDh : Nat) (init : List Byte) : (State.powerOn pDh init).errcode = .ok := rfl

@[simp] theorem State.powerOn_lastop (pDh : Nat) (init : List Byte) : (State.powerOn pDh init).lastop = 0x00#8 := rfl

@[simp] theorem State.powerOn_cmd (pDh : Nat) (init : List Byte) : (State.powerOn pDh init).cmd = 0x00000000#32 := rfl

@[simp] theorem State.powerOn_src (pDh : Nat) (init : List Byte) : (State.powerOn pDh init).src = Vector.replicate 3 Descriptor.zero := rfl

@[simp] theorem State.powerOn_dst (pDh : Nat) (init : List Byte) : (State.powerOn pDh init).dst = 0#12 := rfl

@[simp] theorem State.powerOn_buf (pDh : Nat) (init : List Byte) : (State.powerOn pDh init).buf = Memory.ofBytes init := rfl

@[simp] theorem State.powerOn_poly (pDh : Nat) (init : List Byte) : (State.powerOn pDh init).poly = Poly.zero .idle := rfl

@[simp] theorem State.powerOn_lat (pDh : Nat) (init : List Byte) : (State.powerOn pDh init).lat = Latch.none := rfl

@[simp] theorem State.powerOn_pDh (pDh : Nat) (init : List Byte) : (State.powerOn pDh init).pDh = pDh := rfl

@[simp] theorem State.powerOn_turns (pDh : Nat) (init : List Byte) : (State.powerOn pDh init).turns = [] := rfl

@[simp] theorem State.powerOn_rdata (pDh : Nat) (init : List Byte) : (State.powerOn pDh init).rdata = none := rfl

@[simp] theorem State.powerOn_freeCount (pDh : Nat) (init : List Byte) : (State.powerOn pDh init).freeCount = 0 := rfl

/-! ### A successful completion (R802, R905). -/

@[simp] theorem State.succeeded_degenChk (s : State) (v : List Byte) (p : Poly) : (s.succeeded v p).degenChk = s.degenChk := rfl

@[simp] theorem State.succeeded_irqEn (s : State) (v : List Byte) (p : Poly) : (s.succeeded v p).irqEn = s.irqEn := rfl

@[simp] theorem State.succeeded_busy (s : State) (v : List Byte) (p : Poly) : (s.succeeded v p).busy = false := rfl

@[simp] theorem State.succeeded_done (s : State) (v : List Byte) (p : Poly) : (s.succeeded v p).done = true := rfl

@[simp] theorem State.succeeded_cmdOvr (s : State) (v : List Byte) (p : Poly) : (s.succeeded v p).cmdOvr = s.cmdOvr := rfl

@[simp] theorem State.succeeded_bufConf (s : State) (v : List Byte) (p : Poly) : (s.succeeded v p).bufConf = s.bufConf := rfl

@[simp] theorem State.succeeded_errcode (s : State) (v : List Byte) (p : Poly) : (s.succeeded v p).errcode = .ok := rfl

@[simp] theorem State.succeeded_lastop (s : State) (v : List Byte) (p : Poly) : (s.succeeded v p).lastop = s.lat.word.extractLsb' 0 8 := rfl

@[simp] theorem State.succeeded_cmd (s : State) (v : List Byte) (p : Poly) : (s.succeeded v p).cmd = s.cmd := rfl

@[simp] theorem State.succeeded_src (s : State) (v : List Byte) (p : Poly) : (s.succeeded v p).src = s.src := rfl

@[simp] theorem State.succeeded_dst (s : State) (v : List Byte) (p : Poly) : (s.succeeded v p).dst = s.dst := rfl

@[simp] theorem State.succeeded_buf (s : State) (v : List Byte) (p : Poly) : (s.succeeded v p).buf = s.buf.writeBytes s.dstAt v := rfl

@[simp] theorem State.succeeded_poly (s : State) (v : List Byte) (p : Poly) : (s.succeeded v p).poly = p := rfl

@[simp] theorem State.succeeded_lat (s : State) (v : List Byte) (p : Poly) : (s.succeeded v p).lat = s.lat := rfl

@[simp] theorem State.succeeded_pDh (s : State) (v : List Byte) (p : Poly) : (s.succeeded v p).pDh = s.pDh := rfl

@[simp] theorem State.succeeded_turns (s : State) (v : List Byte) (p : Poly) : (s.succeeded v p).turns = s.turns := rfl

@[simp] theorem State.succeeded_rdata (s : State) (v : List Byte) (p : Poly) : (s.succeeded v p).rdata = s.rdata := rfl

@[simp] theorem State.succeeded_freeCount (s : State) (v : List Byte) (p : Poly) : (s.succeeded v p).freeCount = s.freeCount := rfl

/-! ### An error completion (R904). -/

@[simp] theorem State.failed_degenChk (s : State) (e : ErrCode) : (s.failed e).degenChk = s.degenChk := rfl

@[simp] theorem State.failed_irqEn (s : State) (e : ErrCode) : (s.failed e).irqEn = s.irqEn := rfl

@[simp] theorem State.failed_busy (s : State) (e : ErrCode) : (s.failed e).busy = false := rfl

@[simp] theorem State.failed_done (s : State) (e : ErrCode) : (s.failed e).done = true := rfl

@[simp] theorem State.failed_cmdOvr (s : State) (e : ErrCode) : (s.failed e).cmdOvr = s.cmdOvr := rfl

@[simp] theorem State.failed_bufConf (s : State) (e : ErrCode) : (s.failed e).bufConf = s.bufConf := rfl

@[simp] theorem State.failed_errcode (s : State) (e : ErrCode) : (s.failed e).errcode = e := rfl

@[simp] theorem State.failed_lastop (s : State) (e : ErrCode) : (s.failed e).lastop = s.lat.word.extractLsb' 0 8 := rfl

@[simp] theorem State.failed_cmd (s : State) (e : ErrCode) : (s.failed e).cmd = s.cmd := rfl

@[simp] theorem State.failed_src (s : State) (e : ErrCode) : (s.failed e).src = s.src := rfl

@[simp] theorem State.failed_dst (s : State) (e : ErrCode) : (s.failed e).dst = s.dst := rfl

@[simp] theorem State.failed_buf (s : State) (e : ErrCode) : (s.failed e).buf = s.buf := rfl

@[simp] theorem State.failed_poly (s : State) (e : ErrCode) : (s.failed e).poly = s.poly := rfl

@[simp] theorem State.failed_lat (s : State) (e : ErrCode) : (s.failed e).lat = s.lat := rfl

@[simp] theorem State.failed_pDh (s : State) (e : ErrCode) : (s.failed e).pDh = s.pDh := rfl

@[simp] theorem State.failed_turns (s : State) (e : ErrCode) : (s.failed e).turns = s.turns := rfl

@[simp] theorem State.failed_rdata (s : State) (e : ErrCode) : (s.failed e).rdata = s.rdata := rfl

@[simp] theorem State.failed_freeCount (s : State) (e : ErrCode) : (s.failed e).freeCount = s.freeCount := rfl

/-! ### The bodies of the two completions agree with the shared operation. -/

theorem State.completeWith_eq_failed (e : ErrCode) (s : State) : s.completeWith e = s.failed e := rfl

theorem State.completeWith_ok_eq_succeeded (s : State) (v : List Byte) (p : Poly) :
    State.completeWith .ok { s with buf := s.buf.writeBytes s.lat.dst.toNat v, poly := p } = s.succeeded v p := rfl

end Sys2Proof.Machine
end

