-- ==== Sys2Proof/Laws/Ops.lean ====
section
/-! SUPPORT. What running one command can do, said once: the check fails and the completion is an error, or the operation
aborts, or it succeeds and its bytes are written back. -/

namespace Sys2Proof.Machine

/-- A memory read inside BUF (R13). -/
theorem memRead_ok {m : Memory} {a n : Nat} (h : a + n ≤ Config.bufSize) : memRead m a n = .ok (m.readBytes a n) := by
  simp only [memRead, h, if_true]

/-- A memory write inside BUF (R13). -/
theorem memWrite_ok {m : Memory} {a : Nat} {v : List Byte} (h : a + v.length ≤ Config.bufSize) :
    memWrite m a v = .ok (m.writeBytes a v) := by
  simp only [memWrite, h, if_true]

/-- The length test in the terms of the statements (R305). -/
theorem lengthsOk_eq (i : Instr) (s : State) :
    lengthsOk i s.lat = (usedSources i).all fun kc => kc.2.holds (s.srcLen kc.1) := rfl

/-- The source range test in the terms of the statements (R214). -/
theorem sourcesInRange_eq (i : Instr) (s : State) :
    sourcesInRange i s.lat = (usedSources i).all fun kc => s.srcAddr kc.1 + s.srcLen kc.1 ≤ 4096 := rfl

/-- The destination range test in the terms of the statements (R214). -/
theorem dstInRange_eq (i : Instr) (s : State) :
    dstInRange i s.lat = (outlen i == 0 || s.dstAt + outlen i ≤ 4096) := rfl

/-- A passed check means lengths and ranges are good and the Poly1305 state allows the command (R902). -/
theorem check_eq_ok {i : Instr} {l : Latch} {p : Poly} (h : check i l p = .ok) :
    lengthsOk i l = true ∧ sourcesInRange i l = true ∧ dstInRange i l = true
      ∧ (needsAccum i = true → p.pstate = .accum) ∧ (i = .pBlock → p.pupd = false) := by
  unfold check at h
  split at h
  · cases h
  split at h
  · cases h
  split at h
  · cases h
  split at h
  · cases h
  split at h
  · cases h
  split at h
  · cases h
  rename_i h1 h2 h3 h4 h5 h6
  simp only [Bool.not_eq_true, Bool.not_eq_false'] at h1 h2 h3
  refine ⟨h1, h2, h3, fun hn => ?_, fun hi => ?_⟩
  · rcases hp : p.pstate with _ | _ | _
    · simp [hn, hp] at h4
    · rfl
    · simp [hn, hp] at h5
  · subst hi
    simpa using h6

/-- The bytes the operation gets for source k: those in BUF if the command uses the source, else none (R307, R406). -/
def usedBytes (i : Instr) (s : State) (k : Fin 3) : List Byte :=
  if (usedSources i).any (·.1 == k) then s.srcBytes k else []

/-- The inputs of a command whose sources are in range (R406, R807). -/
def inputsOf (i : Instr) (s : State) : Inputs :=
  { src := #v[usedBytes i s 0, usedBytes i s 1, usedBytes i s 2], degen := s.lat.degen, poly := s.poly }

theorem fetchSource_ok {i : Instr} {s : State} (h : sourcesInRange i s.lat = true) (k : Fin 3) :
    fetchSource i s k = .ok (usedBytes i s k) := by
  unfold fetchSource usedBytes
  by_cases hk : (usedSources i).any (·.1 == k) = true
  · rw [if_pos hk, if_pos hk]
    obtain ⟨kc, hm, he⟩ := List.any_eq_true.1 hk
    have hr := (List.all_eq_true.1 h) kc hm
    have : kc.1 = k := by simpa using he
    subst this
    exact memRead_ok (by simpa using hr)
  · rw [if_neg hk, if_neg hk]

/-- In range, the fetch succeeds (R406). -/
theorem fetch_ok {i : Instr} {s : State} (h : sourcesInRange i s.lat = true) : fetch i s = .ok (inputsOf i s) := by
  simp only [fetch, fetchSource_ok h, inputsOf]

/-- A failed check is an error completion with its code (R802, R904). -/
theorem runCommand_of_check_ne {i : Instr} {op : Inputs → Except ErrCode Effect} {s : State}
    (h : check i s.lat s.poly ≠ .ok) : runCommand i op s = .next (s.failed (check i s.lat s.poly)) := by
  simp only [runCommand, h, if_false, State.completeWith_eq_failed]

/-- A value check inside the operation is an error completion (R802). -/
theorem runCommand_of_abort {i : Instr} {op : Inputs → Except ErrCode Effect} {s : State} {e : ErrCode}
    (h : check i s.lat s.poly = .ok) (ho : op (inputsOf i s) = .error e) : runCommand i op s = .next (s.failed e) := by
  simp only [runCommand, h, if_true, fetch_ok (check_eq_ok h).2.1, ho, State.completeWith_eq_failed]

/-- A success writes the operation's bytes at LAT.dst and its P (R802, R407). -/
theorem runCommand_of_success {i : Instr} {op : Inputs → Except ErrCode Effect} {s : State} {eff : Effect}
    (h : check i s.lat s.poly = .ok) (ho : op (inputsOf i s) = .ok eff) (hl : eff.out.length = outlen i) :
    runCommand i op s = .next (s.succeeded eff.out eff.poly) := by
  have hd := (check_eq_ok h).2.2.1
  have hw : s.lat.dst.toNat + eff.out.length ≤ Config.bufSize := by
    simp only [dstInRange, Bool.or_eq_true, beq_iff_eq, decide_eq_true_eq] at hd
    have := s.lat.dst.isLt
    have hb : Config.bufSize = 4096 := rfl
    rw [hl]
    omega
  simp only [runCommand, h, if_true, fetch_ok (check_eq_ok h).2.1, ho, memWrite_ok hw]
  rfl

/-- Everything one command can do, for an operation whose result has the length R305 gives. -/
theorem runCommand_cases (i : Instr) {op : Inputs → Except ErrCode Effect}
    (hlen : ∀ s eff, check i s.lat s.poly = .ok → op (inputsOf i s) = .ok eff → eff.out.length = outlen i) (s : State) :
    (check i s.lat s.poly ≠ .ok ∧ runCommand i op s = .next (s.failed (check i s.lat s.poly))) ∨
    (∃ e, check i s.lat s.poly = .ok ∧ op (inputsOf i s) = .error e ∧ runCommand i op s = .next (s.failed e)) ∨
    (∃ eff, check i s.lat s.poly = .ok ∧ op (inputsOf i s) = .ok eff ∧ eff.out.length = outlen i ∧
      runCommand i op s = .next (s.succeeded eff.out eff.poly)) := by
  by_cases h : check i s.lat s.poly = .ok
  · rcases ho : op (inputsOf i s) with e | eff
    · exact .inr (.inl ⟨e, h, rfl, runCommand_of_abort h ho⟩)
    · have hl := hlen s eff h ho
      exact .inr (.inr ⟨eff, h, rfl, hl, runCommand_of_success h ho hl⟩)
  · exact .inl ⟨h, runCommand_of_check_ne h⟩

/-- The operation of each command, as its meaning runs it on the machine whose P_DH is `m`. -/
def operationOf (m : Nat) : Instr → Inputs → Except ErrCode Effect
  | .nop => opNop
  | .xClamp => opXClamp
  | .xPadd => opXPadd
  | .xPdbl => opXPdbl
  | .xInv => opXInv
  | .xAffine => opXAffine
  | .xLadder => opXLadder
  | .xPub => opXPub
  | .xShared => opXShared
  | .dhModexp => opDhModexp m
  | .dhPub => opDhPub m
  | .dhShared => opDhShared m
  | .pInit => opPInit
  | .pUpdate pad => opPUpdate pad
  | .pBlock => opPBlock
  | .pTag => opPTag

/-- Every meaning is one run of its operation (R804). -/
theorem exec_eq_runCommand (i : Instr) (s : State) : exec i s = runCommand i (operationOf s.pDh i) s := by
  cases i <;> rfl

/-- Source 0 of a command that uses it. -/
theorem inputsOf_src0 {i : Instr} {s : State} (h : (usedSources i).any (·.1 == 0) = true) :
    (inputsOf i s).src[0] = s.srcBytes 0 := by
  simp [inputsOf, usedBytes, h]

/-- Source 1 of a command that uses it. -/
theorem inputsOf_src1 {i : Instr} {s : State} (h : (usedSources i).any (·.1 == 1) = true) :
    (inputsOf i s).src[1] = s.srcBytes 1 := by
  simp [inputsOf, usedBytes, h]

/-- Source 2 of a command that uses it. -/
theorem inputsOf_src2 {i : Instr} {s : State} (h : (usedSources i).any (·.1 == 2) = true) :
    (inputsOf i s).src[2] = s.srcBytes 2 := by
  simp [inputsOf, usedBytes, h]

@[simp] theorem inputsOf_degen (i : Instr) (s : State) : (inputsOf i s).degen = s.lat.degen := rfl

@[simp] theorem inputsOf_poly (i : Instr) (s : State) : (inputsOf i s).poly = s.poly := rfl

@[simp] theorem length_srcBytes (s : State) (k : Fin 3) : (s.srcBytes k).length = s.srcLen k := by
  simp [State.srcBytes]

/-- The result of every operation has the length R305 gives. -/
theorem length_out_operationOf (m : Nat) (i : Instr) (s : State) (eff : Effect) (h : check i s.lat s.poly = .ok)
    (ho : operationOf m i (inputsOf i s) = .ok eff) : eff.out.length = outlen i := by
  have hl := (check_eq_ok h).1
  cases i with
  | xClamp =>
    have e : eff = (inputsOf .xClamp s).write (clampBytes (inputsOf .xClamp s).src[0]) := by
      simpa [operationOf, opXClamp] using ho.symm
    have h32 : s.srcLen 0 = 32 := by
      simpa [lengthsOk, usedSources, Contract.holds, State.srcLen] using hl
    rw [e, inputsOf_src0 rfl]
    simp [Inputs.write, outlen, h32]
  | xLadder =>
    simp only [operationOf, opXLadder] at ho
    split at ho
    · cases ho
    · cases ho
      simp [Inputs.write, outlen]
  | xShared =>
    simp only [operationOf, opXShared] at ho
    split at ho
    · cases ho
    · cases ho
      simp [Inputs.write, outlen]
  | dhShared =>
    simp only [operationOf, opDhShared] at ho
    split at ho
    · cases ho
    · cases ho
      simp [Inputs.write, outlen]
  | _ =>
    cases ho
    simp [Inputs.write, Inputs.setPoly, outlen]

/-- Everything a completion of a legal command can do. -/
theorem exec_cases (i : Instr) (s : State) :
    (check i s.lat s.poly ≠ .ok ∧ exec i s = .next (s.failed (check i s.lat s.poly))) ∨
    (∃ e, check i s.lat s.poly = .ok ∧ operationOf s.pDh i (inputsOf i s) = .error e ∧ exec i s = .next (s.failed e)) ∨
    (∃ eff, check i s.lat s.poly = .ok ∧ operationOf s.pDh i (inputsOf i s) = .ok eff ∧ eff.out.length = outlen i ∧
      exec i s = .next (s.succeeded eff.out eff.poly)) := by
  rw [exec_eq_runCommand]
  exact runCommand_cases i (fun s eff h ho => length_out_operationOf _ i s eff h ho) s

end Sys2Proof.Machine
end

