-- ==== Sys2Proof/Laws/PerInstr.lean ====
section
/-! SUPPORT. Per command: the encoder makes only legal command words (R308). -/

namespace Sys2Proof.Laws.LegalWord

/-- The fields of the command's word are legal: an assigned OPC, RSVD = 0, PAD only on P_UPDATE (R302-R304, R308). -/
def Statement (i : Instr) : Prop := (fieldsOf (encode i)).wf = true

theorem nop : Statement .nop := rfl

theorem xClamp : Statement .xClamp := rfl

theorem xPadd : Statement .xPadd := rfl

theorem xPdbl : Statement .xPdbl := rfl

theorem xInv : Statement .xInv := rfl

theorem xAffine : Statement .xAffine := rfl

theorem xLadder : Statement .xLadder := rfl

theorem xPub : Statement .xPub := rfl

theorem xShared : Statement .xShared := rfl

theorem dhModexp : Statement .dhModexp := rfl

theorem dhPub : Statement .dhPub := rfl

theorem dhShared : Statement .dhShared := rfl

theorem pInit : Statement .pInit := rfl

theorem pUpdate (pad : Bool) : Statement (.pUpdate pad) := by cases pad <;> rfl

theorem pBlock : Statement .pBlock := rfl

theorem pTag : Statement .pTag := rfl

end Sys2Proof.Laws.LegalWord
end

