-- ==== Sys2Proof/Laws/Run.lean ====
section
/-! SUPPORT. Runs of several steps, and what every step does to the turns: no step stops, each takes one turn, and with no turn
left the block is idle afterwards. -/

namespace Sys2Proof.Machine

/-- One step of a run, for any machine of the host's interface. -/
theorem core_run_succ (M : Host.Core) (k : Nat) (s t : M.State) (h : M.step s = .next t) : M.run (k + 1) s = M.run k t := by
  rw [Host.Core.run, h]

/-- Two runs one after the other, for any machine of the host's interface. -/
theorem core_run_add (M : Host.Core) (n m : Nat) (s t : M.State) (h : M.run n s = .next t) :
    M.run (n + m) s = M.run m t := by
  induction n generalizing s with
  | zero =>
    rw [Host.Core.run] at h
    cases h
    rw [Nat.zero_add]
  | succ n ih =>
    rw [Nat.succ_add]
    rw [Host.Core.run] at h ⊢
    split at h
    · exact ih _ h
    · cases h
    · cases h

/-- One step of a run of the block. -/
theorem run_succ (k : Nat) (s t : State) (h : step s = .next t) : Sys2Proof.core.run (k + 1) s = Sys2Proof.core.run k t :=
  core_run_succ Sys2Proof.core k s t h

/-- Two runs of the block one after the other. -/
theorem run_add (n m : Nat) (s t : State) (h : Sys2Proof.core.run n s = .next t) :
    Sys2Proof.core.run (n + m) s = Sys2Proof.core.run m t :=
  core_run_add Sys2Proof.core n m s t h

/-- A completion of a legal command answers a next state, idle, with the turns to come unchanged (R802). -/
theorem exec_next (i : Instr) (s : State) : ∃ t, exec i s = .next t ∧ t.busy = false ∧ t.turns = s.turns := by
  rcases exec_cases i s with ⟨_, h⟩ | ⟨e, _, _, h⟩ | ⟨eff, _, _, _, h⟩ <;> exact ⟨_, h, rfl, rfl⟩

/-- The engine's turn leaves the block idle (R802). -/
theorem engineTurn_next (s : State) : ∃ t, engineTurn s = .next t ∧ t.busy = false ∧ t.turns = s.turns := by
  unfold engineTurn
  split
  · unfold completion
    split
    · exact exec_next _ _
    · exact ⟨_, rfl, rfl, rfl⟩
  · rename_i h
    exact ⟨s, rfl, by simpa using h, rfl⟩

/-- Every step answers a next state and takes one turn; with none left the block is idle afterwards (R800, R808). -/
theorem step_next (s : State) : ∃ t, step s = .next t ∧ t.turns = s.turns.tail ∧ (s.turns = [] → t.busy = false) := by
  unfold step
  split
  · rename_i h
    obtain ⟨t, h1, h2, h3⟩ := engineTurn_next s
    exact ⟨t, h1, by rw [h3, h]; rfl, fun _ => h2⟩
  · rename_i t rest h
    rw [h]
    cases t with
    | read o => exact ⟨_, rfl, by rw [turns_hostRead]; rfl, by simp⟩
    | write o v strb => exact ⟨_, rfl, by rw [turns_hostWrite]; rfl, by simp⟩
    | engine =>
      obtain ⟨t, h1, h2, h3⟩ := engineTurn_next { s with turns := rest }
      exact ⟨t, h1, by rw [h3]; rfl, by simp⟩
    | powerOn init => exact ⟨_, rfl, rfl, by simp⟩

end Sys2Proof.Machine
end

