-- ==== Sys2Proof/Tests/Slice0.lean ====
section
/-! SUPPORT. Tests: ill-formed terms are refused, the written command words decode, one step of each command gives the values
of spec/95_test_vectors.md, and a state meets the hypotheses of each statement. Byte strings of the spec stand as numerals
under `pack`, so with their bytes reversed. -/

namespace Sys2Proof.Tests

set_option Elab.async false

open Sys2Proof Sys2Proof.Machine

/-! ### Helpers -/

/-- A source descriptor. -/
def src (a n : Nat) : Descriptor := { addr := BitVec.ofNat 12 a, len := BitVec.ofNat 13 n }

/-- The cells of a byte string from `a` up, without the unlisted byte. -/
def cells : Nat → List Byte → Memory
  | _, [] => []
  | a, b :: bs => if b = Config.unlistedByte then cells (a + 1) bs else (a, b) :: cells (a + 1) bs

/-- The power-on state with byte strings, at rising addresses, in BUF, the descriptors set, `w` issued, and the engine next to move. -/
def issued (w : Word) (m : List (Nat × List Byte)) (s0 s1 s2 : Descriptor) (dst : Nat) (degen : Bool) (p : Poly) : State :=
  let s : State := { State.reset with
    buf := m.flatMap (fun x => cells x.1 x.2), src := #v[s0, s1, s2], dst := BitVec.ofNat 12 dst
    degenChk := degen, poly := p }
  { s.issue w with turns := [.engine] }

/-- STATUS and `n` bytes of BUF from `a` after a step. -/
def after (o : Host.Outcome State Fault Refusal) (a n : Nat) : Option (Word × List Byte) :=
  match o with
  | .next t => some (t.statusWord, t.buf.readBytes a n)
  | .fault _ => none
  | .refused _ => none

/-- P after a step. -/
def polyAfter (o : Host.Outcome State Fault Refusal) : Option Poly :=
  match o with
  | .next t => some t.poly
  | .fault _ => none
  | .refused _ => none

/-- What the host read in a step. -/
def readAfter (o : Host.Outcome State Fault Refusal) : Option Word :=
  match o with
  | .next t => t.rdata
  | .fault _ => none
  | .refused _ => none

/-- No descriptor. -/
def none0 : Descriptor := src 0 0

/-- Alice's private key (V1). -/
def alice : List Byte := pack 32 0x2a2cb91da5fb77b12a99c0eb872f4cdf4566b25172c1163c7da518730a6d0777

/-- The one-time key of V3. -/
def key : List Byte := pack 32 0x1bf54941aff6bf4afdb20dfb8a800301a806d542fe52447f336d555778bed685

/-- The message of V3, 34 bytes. -/
def message : List Byte := pack 34 0x70756f7247206863726165736552206d75726f4620636968706172676f7470797243

/-- The bytes 00 01 .. of length `n`. -/
def count (n : Nat) : List Byte := (List.range n).map (BitVec.ofNat 8)

/-- The P that V3 gives after its three chunks. -/
def absorbed : Poly := { Poly.load key with pacc := 0x28d31b7caff946c77c8844335369d03a7 }

/-! ### Well-formedness: an ill-formed term for each check -/

theorem test_wf_opcode : Fields.assigned { opc := 0x18#8, pad := false, rsvd := 0#23 } = false := by decide

theorem test_wf_reserved : Fields.rsvdOk { opc := 0x31#8, pad := true, rsvd := 1#23 } = false := by decide

theorem test_wf_pad : Fields.padOk { opc := 0x16#8, pad := true, rsvd := 0#23 } = false := by decide

theorem test_wf_fields : Fields.wf { opc := 0x31#8, pad := true, rsvd := 0#23 } = true
    ∧ Fields.wf { opc := 0x40#8, pad := false, rsvd := 0#23 } = false := by decide

theorem test_wf_line_destination :
    CommandLine.dstPresent { instr := .xPub, dst := none, sources := [{ addr := 0, len := 32 }] } = false
    ∧ CommandLine.dstPresent { instr := .nop, dst := some 0, sources := [] } = false := by decide

theorem test_wf_line_destination_fits :
    CommandLine.dstFits { instr := .pTag, dst := some 4096, sources := [] } = false := by decide

theorem test_wf_line_sources :
    CommandLine.sourcesPresent { instr := .xShared, dst := some 0, sources := [{ addr := 0, len := 32 }] } = false := by
  decide

theorem test_wf_line_sources_fit :
    CommandLine.sourcesFit { instr := .pBlock, dst := none, sources := [{ addr := 4096, len := 1 }] } = false
    ∧ CommandLine.sourcesFit { instr := .pBlock, dst := none, sources := [{ addr := 0, len := 8192 }] } = false := by
  decide

theorem test_wf_line : CommandLine.wf { instr := .xPub, dst := some 0x040, sources := [{ addr := 0, len := 32 }] } = true := by
  decide

/-! ### Decoding: the words of spec/95 2.1, and R300's fields written out -/

theorem test_decode_nop : decode (0b00000000000000000000000#23 ++ 0b0#1 ++ 0b00000000#8) = .ok .nop := by decide

theorem test_decode_x_clamp : decode (0b00000000000000000000000#23 ++ 0b0#1 ++ 0b00010000#8) = .ok .xClamp := by decide

theorem test_decode_x_padd : decode (0b00000000000000000000000#23 ++ 0b0#1 ++ 0b00010001#8) = .ok .xPadd := by decide

theorem test_decode_x_pdbl : decode (0b00000000000000000000000#23 ++ 0b0#1 ++ 0b00010010#8) = .ok .xPdbl := by decide

theorem test_decode_x_inv : decode (0b00000000000000000000000#23 ++ 0b0#1 ++ 0b00010011#8) = .ok .xInv := by decide

theorem test_decode_x_affine : decode (0b00000000000000000000000#23 ++ 0b0#1 ++ 0b00010100#8) = .ok .xAffine := by decide

theorem test_decode_x_ladder : decode (0b00000000000000000000000#23 ++ 0b0#1 ++ 0b00010101#8) = .ok .xLadder := by decide

theorem test_decode_x_pub : decode (0b00000000000000000000000#23 ++ 0b0#1 ++ 0b00010110#8) = .ok .xPub := by decide

theorem test_decode_x_shared : decode (0b00000000000000000000000#23 ++ 0b0#1 ++ 0b00010111#8) = .ok .xShared := by decide

theorem test_decode_dh_modexp : decode (0b00000000000000000000000#23 ++ 0b0#1 ++ 0b00100000#8) = .ok .dhModexp := by decide

theorem test_decode_dh_pub : decode (0b00000000000000000000000#23 ++ 0b0#1 ++ 0b00100001#8) = .ok .dhPub := by decide

theorem test_decode_dh_shared : decode (0b00000000000000000000000#23 ++ 0b0#1 ++ 0b00100010#8) = .ok .dhShared := by decide

theorem test_decode_p_init : decode (0b00000000000000000000000#23 ++ 0b0#1 ++ 0b00110000#8) = .ok .pInit := by decide

theorem test_decode_p_block : decode (0b00000000000000000000000#23 ++ 0b0#1 ++ 0b00110010#8) = .ok .pBlock := by decide

theorem test_decode_p_tag : decode (0b00000000000000000000000#23 ++ 0b0#1 ++ 0b00110011#8) = .ok .pTag := by decide

theorem test_decode_p_update : decode (0b00000000000000000000000#23 ++ 0b0#1 ++ 0b00110001#8) = .ok (.pUpdate false)
    ∧ decode (0b00000000000000000000000#23 ++ 0b1#1 ++ 0b00110001#8) = .ok (.pUpdate true) := by decide

theorem test_decode_illegal : decode 0x00000001#32 = .error .unassignedOpcode
    ∧ decode 0x00000018#32 = .error .unassignedOpcode ∧ decode 0x000000ff#32 = .error .unassignedOpcode
    ∧ decode 0x00000100#32 = .error .padNotAllowed ∧ decode 0x80000000#32 = .error .reservedBits := by decide

theorem test_decode_bytes : decodeBytes [0x31#8, 0x01#8, 0x00#8, 0x00#8] = .ok (.pUpdate true)
    ∧ decodeBytes [0x31#8, 0x01#8, 0x00#8] = .error .notOneWord := by decide

theorem test_decode_table_word : decodeTableWord 32 0x131 = some (.pUpdate true) ∧ decodeTableWord 32 0x116 = none := by
  decide

/-! ### One step of each command -/

/-- spec/95 2.5: NOP after reset. -/
theorem test_nop : after (step (issued 0x00 [] none0 none0 none0 0 false (Poly.zero .idle))) 0 0
    = some (0x00000002#32, []) := by decide +kernel

/-- spec/95 2.5: an illegal word. -/
theorem test_illegal : after (step (issued 0x00000116 [] none0 none0 none0 0 false (Poly.zero .idle))) 0 0
    = some (0x16000102#32, []) := by decide +kernel

/-- V1: the clamped scalar. -/
theorem test_x_clamp : after (step (issued 0x10 [(0, alice)]
    (src 0 32) none0 none0 0x20 false (Poly.zero .idle))) 0x20 32 = some (0x10000002#32, pack 32 0x6a2cb91da5fb77b12a99c0eb872f4cdf4566b25172c1163c7da518730a6d0770) := by decide +kernel

/-- spec/95 2.2: `ff`×32 to `f8ff…ff7f`, DST = SRC0 (R510). -/
theorem test_x_clamp_in_place : after (step (issued 0x10 [(7, List.replicate 32 0xFF#8)]
    (src 7 32) none0 none0 7 false (Poly.zero .idle))) 7 32 = some (0x10000002#32, 0xF8#8 :: (List.replicate 30 0xFF#8 ++ [0x7F#8])) := by decide +kernel

/-- spec/95 2.2: from 2·(9) and 9 with difference 9 to 3·(9). -/
theorem test_x_padd : after (step (issued 0x11 [(0, packPair ⟨0x1900, 0x9660720⟩), (64, packPair ⟨9, 1⟩)]
    (src 0 64) (src 64 64) (src 64 64) 0x80 false (Poly.zero .idle))) 0x80 64 = some (0x11000002#32, packPair ⟨0x16112956bb61000, 0x3ee27bed76d439000⟩) := by decide +kernel

/-- spec/95 2.2: n = m = d = (9, 1) gives (25600, 0), written over the sources. -/
theorem test_x_padd_equal : after (step (issued 0x11 [(0, packPair ⟨9, 1⟩)]
    (src 0 64) (src 0 64) (src 0 64) 0 false (Poly.zero .idle))) 0 64 = some (0x11000002#32, packPair ⟨25600, 0⟩) := by decide +kernel

/-- spec/95 2.2. -/
theorem test_x_pdbl : after (step (issued 0x12 [(0, packPair ⟨9, 1⟩)]
    (src 0 64) none0 none0 0x80 false (Poly.zero .idle))) 0x80 64 = some (0x12000002#32, packPair ⟨0x1900, 0x9660720⟩) := by decide +kernel

/-- spec/95 2.2: (0, 1) to (1, 0). -/
theorem test_x_pdbl_infinity : after (step (issued 0x12 [(0, packPair ⟨0, 1⟩)]
    (src 0 64) none0 none0 0x80 false (Poly.zero .idle))) 0x80 64 = some (0x12000002#32, packPair ⟨1, 0⟩) := by decide +kernel

/-- spec/95 2.2: z = 9. -/
theorem test_x_inv : after (step (issued 0x13 [(0, pack 32 9)]
    (src 0 32) none0 none0 0x80 false (Poly.zero .idle))) 0x80 32 = some (0x13000002#32, pack 32 0x471c71c71c71c71c71c71c71c71c71c71c71c71c71c71c71c71c71c71c71c712) := by decide +kernel

/-- spec/95 2.2: z = p gives 0. -/
theorem test_x_inv_of_p : after (step (issued 0x13 [(0, pack 32 (2 ^ 255 - 19))]
    (src 0 32) none0 none0 0 false (Poly.zero .idle))) 0 32 = some (0x13000002#32, List.replicate 32 0#8) := by decide +kernel

/-- spec/95 2.2. -/
theorem test_x_affine : after (step (issued 0x14 [(0, packPair ⟨0x1900, 0x9660720⟩)]
    (src 0 64) none0 none0 0x80 false (Poly.zero .idle))) 0x80 32 = some (0x14000002#32, pack 32 0x20d342d51873f1b7d9750c687d1571148f3f5ced1e350b5c5cae469cdd684efb) := by decide +kernel

/-- spec/95 2.2: (5, 0) to 0. -/
theorem test_x_affine_infinity : after (step (issued 0x14 [(0, packPair ⟨5, 0⟩)]
    (src 0 64) none0 none0 0 false (Poly.zero .idle))) 0 32 = some (0x14000002#32, List.replicate 32 0#8) := by decide +kernel

/-- spec/95 2.2: n = 5, u = 9. -/
theorem test_x_ladder : after (step (issued 0x15 [(0, pack 32 5), (32, pack 32 9)]
    (src 0 32) (src 32 32) none0 0x80 false (Poly.zero .idle))) 0x80 64 = some (0x15000002#32, packPair ⟨0x1551f910784aa31c611982e165cf1efb4efac11000000000, 0x163fed6fe55a1894558bfdaef0b1c0f8229000000000⟩) := by decide +kernel

/-- spec/95 2.2: n = 0 is ZERO_SCALAR and writes nothing. -/
theorem test_x_ladder_zero : after (step (issued 0x15 [(32, pack 32 9)]
    (src 0 32) (src 32 32) none0 32 false (Poly.zero .idle))) 32 32 = some (0x15000702#32, pack 32 9) := by decide +kernel

/-- V1. -/
theorem test_x_pub : after (step (issued 0x16 [(0, alice)]
    (src 0 32) none0 none0 0x40 false (Poly.zero .idle))) 0x40 32 = some (0x16000002#32, pack 32 0x6a4e9baa8ea9a4ebf41a38260d3abf0d5af73eb4dc7d8b7454a7308909f02085) := by decide +kernel

/-- spec/95 2.5: the length is checked before the range. -/
theorem test_x_pub_length : after (step (issued 0x16 []
    (src 4090 33) none0 none0 0 false (Poly.zero .idle))) 0 1 = some (0x16000202#32, [0#8]) := by decide +kernel

/-- V2. -/
theorem test_x_shared : after (step (issued 0x17 [(0, alice), (32, pack 32 0x4f2b886f147efcad4d67785bc843833f3735e4ecc2615bd3b4c17d7b7ddb9ede)]
    (src 0 32) (src 32 32) none0 0x80 true (Poly.zero .idle))) 0x80 32 = some (0x17000002#32, pack 32 0x4217161e3c9bf076339ed147c9217ee0250f3580f43b8e72e12dcea45b9d5d4a) := by decide +kernel

/-- spec/95 2.2: peer u = 0 with DEGEN_CHK = 1, nothing written. -/
theorem test_x_shared_degenerate : after (step (issued 0x17 [(0, alice)]
    (src 0 32) (src 32 32) none0 0 true (Poly.zero .idle))) 0 4 = some (0x17000802#32, [0x77#8, 0x07#8, 0x6d#8, 0x0a#8]) := by decide +kernel

/-- spec/95 2.3: 3^5. -/
theorem test_dh_modexp : after (step (issued 0x20 [(0, pack 256 3), (256, pack 32 5)]
    (src 0 256) (src 256 32) none0 0x200 false (Poly.zero .idle))) 0x200 16 = some (0x20000002#32, 0xF3#8 :: List.replicate 15 0#8) := by decide +kernel

/-- spec/95 2.3: 0^0 = 1. -/
theorem test_dh_modexp_zero : after (step (issued 0x20 []
    (src 0 256) (src 256 32) none0 0x200 false (Poly.zero .idle))) 0x200 16 = some (0x20000002#32, 1#8 :: List.replicate 15 0#8) := by decide +kernel

/-- spec/95 2.3: the first 16 bytes for e = 2^256 − 1. -/
theorem test_dh_pub_wide : after (step (issued 0x21 [(0, List.replicate 32 0xFF#8)]
    (src 0 32) none0 none0 0x200 false (Poly.zero .idle))) 0x200 16 = some (0x21000002#32, pack 16 0x0f9f7ca76e6328df9521648104f42044) := by decide +kernel

/-- spec/95 2.3: peer = 1 with DEGEN_CHK = 0 gives 1. -/
theorem test_dh_shared : after (step (issued 0x22 [(0, alice), (0x100, pack 256 1)]
    (src 0 32) (src 0x100 256) none0 0x300 false (Poly.zero .idle))) 0x300 16 = some (0x22000002#32, pack 16 1) := by decide +kernel

/-- spec/95 2.3: peer = 0 with DEGEN_CHK = 1, nothing written. -/
theorem test_dh_shared_degenerate : after (step (issued 0x22 [(0, alice)]
    (src 0 32) (src 0x100 256) none0 0 true (Poly.zero .idle))) 0 4 = some (0x22000802#32, [0x77#8, 0x07#8, 0x6d#8, 0x0a#8]) := by decide +kernel

/-- V3: PR and PS of the key; the rest of P zero, PSTATE ACCUM. -/
theorem test_p_init : polyAfter (step (issued 0x30 [(0x100, key)] (src 0x100 32) none0 none0 0 false (Poly.zero .final)))
    = some { Poly.zero .accum with pr := 0x0806d5400e52447c036d555408bed685#128, ps := 0x1bf54941aff6bf4afdb20dfb8a800301#128 } := by
  decide +kernel

/-- spec/95 2.4: a 31-byte key is INVALID_LENGTH, P unchanged. -/
theorem test_p_init_length : polyAfter (step (issued 0x30 [] (src 0 31) none0 none0 0 false absorbed)) = some absorbed := by
  decide +kernel

/-- V3 and R703: 34 bytes absorb two blocks and leave "up" in PTAIL. -/
theorem test_p_update : polyAfter (step (issued 0x31 [(0x200, message)] (src 0x200 34) none0 none0 0 false (Poly.load key)))
    = some { Poly.load key with
        pupd := true, pacc := 0x2d8adaf23b0337fa7cccfb4ea344b30de, ptlen := 2
        ptail := #v[0x75#8, 0x70#8, 0, 0, 0, 0, 0, 0, 0, 0, 0, 0, 0, 0, 0] } := by decide +kernel

/-- spec/95 2.4: after P_UPDATE.PAD "abc" (as chunks "abc" and thirteen zeros), P_UPDATE.PAD "de" and the tag. -/
theorem test_p_update_pad : (polyAfter (step (issued 0x131 [(0, [0x64#8, 0x65#8])] (src 0 2) none0 none0 0 false
      ((Poly.load key).update ([0x61#8, 0x62#8, 0x63#8] ++ List.replicate 13 0#8))))).map (fun p => pack 16 p.tag)
    = some (pack 16 0xcbfc79e3d47849e79643cf24806f274b) := by decide +kernel

/-- V3: PACC after the first 16-byte chunk. -/
theorem test_p_block : (polyAfter (step (issued 0x32 [(0x200, message)] (src 0x200 16) none0 none0 0 false (Poly.load key)))).map
    (·.pacc) = some 0x2c88c77849d64ae9147ddeb88e69c83fc := by decide +kernel

/-- spec/95 2.5: length 17 while IDLE. -/
theorem test_p_block_length : after (step (issued 0x32 []
    (src 0 17) none0 none0 0 false (Poly.zero .idle))) 0 0 = some (0x32000202#32, []) := by decide +kernel

/-- V3: the tag; STATUS shows FINAL. -/
theorem test_p_tag : after (step (issued 0x33 []
    none0 none0 none0 0x300 false absorbed)) 0x300 16 = some (0x33020002#32, pack 16 0xa927010caf8b2bc2c6365130c11d06a8) := by decide +kernel

/-- spec/95 2.5: the range is checked before PSTATE. -/
theorem test_p_tag_range : after (step (issued 0x33 []
    none0 none0 none0 4090 false (Poly.zero .idle))) 0 0 = some (0x33000302#32, []) := by decide +kernel

/-- R601, R604: another P_DH, 2^2047 + 1. There 2^2047 is −1, and 2^256 − 1 is 7 mod 4094, so 2^e is 2^7. -/
theorem test_dh_pub_parameter : after (step { issued 0x21 [(0, List.replicate 32 0xFF#8)] (src 0 32) none0 none0 0x200 false
      (Poly.zero .idle) with pDh := 2 ^ 2047 + 1 }) 0x200 256 = some (0x21000002#32, pack 256 128) := by decide +kernel

/-! ### The host bus -/

/-- spec/95 P3: a word write with strobe 0b0011 stores two bytes. -/
theorem test_write_strobed : after (step { State.reset with turns := [.write 0x1220#13 0xFFFF7075#32 0b0011#4] }) 0x21F 4
    = some (0x00000000#32, [0x00#8, 0x75#8, 0x70#8, 0x00#8]) := by decide +kernel

/-- R312: `WR off, v, strb` and its default strobe. -/
theorem test_wr_strobe : HostProgram.wr 0x1220 0x7075#32 0b0011#4 = [.write 0x1220#13 0x7075#32 0b0011#4]
    ∧ HostProgram.wr 0x00C 0x10#32 = [.write 0x00C#13 0x10#32 0b1111#4] := by decide

/-- R312, R204: `RDB 0x102, 3` keeps the last two lanes of one word and the first of the next; the words of spec/95 P3's
`RDB 0x300, 16` are the tag of V3. -/
theorem test_rdb_bytes : HostProgram.rdb 0x102 3 = [.read 0x1100#13, .read 0x1104#13]
    ∧ HostProgram.rdbBytes 0x102 3 [0x44332211#32, 0x88776655#32] = [0x33#8, 0x44#8, 0x55#8]
    ∧ HostProgram.rdbBytes 0x300 16 [0xc11d06a8#32, 0xc6365130#32, 0xaf8b2bc2#32, 0xa927010c#32]
      = pack 16 0xa927010caf8b2bc2c6365130c11d06a8 := by decide +kernel

/-- R316: the three WAITs of P_MAC poll 0, 2 and 1 times while BUSY. -/
theorem test_p_mac : (HostProgram.pMac 0x300 0x100 0x200 34 0 2 1).countP (· == .read 0x008#13) = 6
    ∧ (HostProgram.pMac 0x300 0x100 0x200 34 0 2 1).countP (· == .engine) = 3 := by decide

/-- spec/95 P6: STATUS while busy after a dropped CMD write and a BUF read. -/
theorem test_status_busy : readAfter (step { issued 0x16 [] none0 none0 none0 0 false (Poly.zero .idle) with
    cmdOvr := true, bufConf := true, turns := [.read 0x008#13] }) = some 0x0000000d#32 := by decide +kernel

/-- spec/95 P8: IRQ_EN and the NOP's completion raise the line. -/
theorem test_irq : (match step { issued 0x00 [] none0 none0 none0 0 false (Poly.zero .idle) with irqEn := true } with
    | .next t => t.irq
    | .fault _ => false
    | .refused _ => false) = true := by decide +kernel

/-- spec/95 P9: a soft reset while busy; STATUS reads 0 and the key in BUF stays. -/
theorem test_soft_reset : after (step { issued 0x16 [(0, alice)] (src 0 32) none0 none0 0x40 false absorbed with
    turns := [.write 0x004#13 0x80000000#32 0b1111#4] }) 0 32 = some (0x00000000#32, alice) := by decide +kernel

/-- The memory of the power-on state is in canonical form. -/
theorem test_reset_memory : State.reset.buf.wf = true := by decide

/-- `withFetchWord` makes the next step run the word. -/
theorem test_with_fetch_word : after (step (State.reset.withFetchWord 32 0x33)) 0 0 = some (0x33000402#32, []) := by
  decide +kernel

/-! ### Witnesses: for each statement with hypotheses, a state and operands that meet them, per clause at a boundary -/

/-- A step or completion that answers a next state with the property `p`. -/
theorem meets (out : Host.Outcome State Fault Refusal) (p : State → Bool)
    (h : (match out with | .next t => p t | .fault _ => false | .refused _ => false) = true) :
    ∃ t, out = .next t ∧ p t = true := by
  cases out with
  | next t => exact ⟨t, rfl, h⟩
  | fault r => cases h
  | refused r => cases h

/-- A command in flight with no bytes in BUF. -/
def flying (w : Word) (s0 s1 s2 : Descriptor) (dst : Nat) : State := issued w [] s0 s1 s2 dst false (Poly.zero .accum)

theorem witness_decode_encode :
    Instr.wf (.pUpdate true) = true ∧ Instr.wf (.pUpdate false) = true := by decide

theorem witness_encode_decode :
    decode 0x131#32 = .ok (.pUpdate true) := by decide

theorem witness_codec :
    (0 : Nat) < 32 ∧ (31 : Nat) < 32 := by decide

theorem witness_clamp :
    2 ^ 256 - 1 < 2 ^ 256 ∧ alice.length = 32 := by decide +kernel

theorem witness_inverse :
    (2 ^ 255 - 19) % (2 ^ 255 - 19) = 0 ∧ (Pair.mk 5 0).z % (2 ^ 255 - 19) = 0 := by decide +kernel

theorem witness_ladder :
    (2 ≤ 2 ∧ 2 < 2 ^ 256 ∧ 2 % 2 ≠ 1) ∧ (2 ≤ 2 ^ 256 - 1 ∧ 2 ^ 256 - 1 < 2 ^ 256 ∧ (2 ^ 256 - 1) % 2 = 1) := by decide +kernel

theorem witness_modexp :
    1 < Config.pDh ∧ 2 ^ 256 - 1 < 2 ^ 256 := by decide +kernel

theorem witness_absorb :
    unpack [1#8] + 2 ^ (8 * [1#8].length) = unpack [1#8] + 2 ^ (8 * [1#8].length) := by decide

theorem witness_tag :
    key.length = 32 := by decide +kernel

theorem witness_nop :
    (0x00000100#32).extractLsb' 0 8 = 0x00#8 ∧ 0x00000100#32 ≠ 0x00000000#32
    ∧ (flying 0x00 none0 none0 none0 0).lat.word = 0x00000000#32 := by decide

theorem witness_x_clamp :
    let s := flying 0x10 (src 4064 32) none0 none0 4064
    let u := flying 0x10 (src 0 33) none0 none0 0
    let v := flying 0x10 (src 4065 32) none0 none0 0
    (s.srcLen 0 = 32 ∧ InBuf (s.srcAddr 0) 32 ∧ InBuf s.dstAt 32)
      ∧ ¬ (u.srcLen 0 = 32)
      ∧ (v.srcLen 0 = 32 ∧ ¬ (InBuf (v.srcAddr 0) 32 ∧ InBuf v.dstAt 32)) := by decide +kernel

theorem witness_x_padd :
    let s := flying 0x11 (src 4032 64) (src 4032 64) (src 4032 64) 4032
    let u := flying 0x11 (src 0 65) (src 0 64) (src 0 64) 0
    let v := flying 0x11 (src 4033 64) (src 0 64) (src 0 64) 0
    (s.srcLen 0 = 64 ∧ s.srcLen 1 = 64 ∧ s.srcLen 2 = 64 ∧ InBuf (s.srcAddr 0) 64 ∧ InBuf (s.srcAddr 1) 64 ∧ InBuf (s.srcAddr 2) 64 ∧ InBuf s.dstAt 64)
      ∧ ¬ (u.srcLen 0 = 64 ∧ u.srcLen 1 = 64 ∧ u.srcLen 2 = 64)
      ∧ (v.srcLen 0 = 64 ∧ v.srcLen 1 = 64 ∧ v.srcLen 2 = 64 ∧ ¬ (InBuf (v.srcAddr 0) 64 ∧ InBuf (v.srcAddr 1) 64 ∧ InBuf (v.srcAddr 2) 64 ∧ InBuf v.dstAt 64)) := by decide +kernel

theorem witness_x_pdbl :
    let s := flying 0x12 (src 4032 64) none0 none0 4032
    let u := flying 0x12 (src 0 65) none0 none0 0
    let v := flying 0x12 (src 4033 64) none0 none0 0
    (s.srcLen 0 = 64 ∧ InBuf (s.srcAddr 0) 64 ∧ InBuf s.dstAt 64)
      ∧ ¬ (u.srcLen 0 = 64)
      ∧ (v.srcLen 0 = 64 ∧ ¬ (InBuf (v.srcAddr 0) 64 ∧ InBuf v.dstAt 64)) := by decide +kernel

theorem witness_x_inv :
    let s := flying 0x13 (src 4064 32) none0 none0 4064
    let u := flying 0x13 (src 0 33) none0 none0 0
    let v := flying 0x13 (src 4065 32) none0 none0 0
    (s.srcLen 0 = 32 ∧ InBuf (s.srcAddr 0) 32 ∧ InBuf s.dstAt 32)
      ∧ ¬ (u.srcLen 0 = 32)
      ∧ (v.srcLen 0 = 32 ∧ ¬ (InBuf (v.srcAddr 0) 32 ∧ InBuf v.dstAt 32)) := by decide +kernel

theorem witness_x_affine :
    let s := flying 0x14 (src 4032 64) none0 none0 4064
    let u := flying 0x14 (src 0 65) none0 none0 0
    let v := flying 0x14 (src 4033 64) none0 none0 0
    (s.srcLen 0 = 64 ∧ InBuf (s.srcAddr 0) 64 ∧ InBuf s.dstAt 32)
      ∧ ¬ (u.srcLen 0 = 64)
      ∧ (v.srcLen 0 = 64 ∧ ¬ (InBuf (v.srcAddr 0) 64 ∧ InBuf v.dstAt 32)) := by decide +kernel

theorem witness_x_ladder :
    let s := flying 0x15 (src 4064 32) (src 4064 32) none0 4032
    let u := flying 0x15 (src 0 33) (src 0 32) none0 0
    let v := flying 0x15 (src 4065 32) (src 0 32) none0 0
    (s.srcLen 0 = 32 ∧ s.srcLen 1 = 32 ∧ InBuf (s.srcAddr 0) 32 ∧ InBuf (s.srcAddr 1) 32 ∧ InBuf s.dstAt 64 ∧ unpack (s.srcBytes 0) = 0)
      ∧ ¬ (u.srcLen 0 = 32 ∧ u.srcLen 1 = 32)
      ∧ (v.srcLen 0 = 32 ∧ v.srcLen 1 = 32 ∧ ¬ (InBuf (v.srcAddr 0) 32 ∧ InBuf (v.srcAddr 1) 32 ∧ InBuf v.dstAt 64)) := by decide +kernel

theorem witness_x_ladder_nonzero :
    let s := issued 0x15 [(0, pack 32 1)] (src 0 32) (src 4064 32) none0 4032 false (Poly.zero .idle)
    s.srcLen 0 = 32 ∧ s.srcLen 1 = 32 ∧ InBuf (s.srcAddr 0) 32 ∧ InBuf (s.srcAddr 1) 32 ∧ InBuf s.dstAt 64
      ∧ unpack (s.srcBytes 0) ≠ 0 := by decide +kernel

theorem witness_x_pub :
    let s := flying 0x16 (src 4064 32) none0 none0 4064
    let u := flying 0x16 (src 0 33) none0 none0 0
    let v := flying 0x16 (src 4065 32) none0 none0 0
    (s.srcLen 0 = 32 ∧ InBuf (s.srcAddr 0) 32 ∧ InBuf s.dstAt 32)
      ∧ ¬ (u.srcLen 0 = 32)
      ∧ (v.srcLen 0 = 32 ∧ ¬ (InBuf (v.srcAddr 0) 32 ∧ InBuf v.dstAt 32)) := by decide +kernel

theorem witness_x_shared :
    let s := flying 0x17 (src 4064 32) (src 4064 32) none0 4064
    let u := flying 0x17 (src 0 33) (src 0 32) none0 0
    let v := flying 0x17 (src 4065 32) (src 0 32) none0 0
    (s.srcLen 0 = 32 ∧ s.srcLen 1 = 32 ∧ InBuf (s.srcAddr 0) 32 ∧ InBuf (s.srcAddr 1) 32 ∧ InBuf s.dstAt 32
      ∧ ¬ (s.lat.degen = true ∧ affine (ladder (clamp (unpack (s.srcBytes 0))) (unpack (s.srcBytes 1))) = 0))
      ∧ ¬ (u.srcLen 0 = 32 ∧ u.srcLen 1 = 32)
      ∧ (v.srcLen 0 = 32 ∧ v.srcLen 1 = 32 ∧ ¬ (InBuf (v.srcAddr 0) 32 ∧ InBuf (v.srcAddr 1) 32 ∧ InBuf v.dstAt 32)) := by decide +kernel

theorem witness_x_shared_degenerate :
    let s := issued 0x17 [] (src 0 32) (src 32 32) none0 4064 true (Poly.zero .idle)
    s.srcLen 0 = 32 ∧ s.srcLen 1 = 32 ∧ InBuf (s.srcAddr 0) 32 ∧ InBuf (s.srcAddr 1) 32 ∧ InBuf s.dstAt 32
      ∧ s.lat.degen = true ∧ affine (ladder (clamp (unpack (s.srcBytes 0))) (unpack (s.srcBytes 1))) = 0 := by decide +kernel

theorem witness_dh_modexp :
    let s := flying 0x20 (src 3840 256) (src 4064 32) none0 3840
    let u := flying 0x20 (src 0 257) (src 0 32) none0 0
    let v := flying 0x20 (src 3841 256) (src 0 32) none0 0
    (s.srcLen 0 = 256 ∧ s.srcLen 1 = 32 ∧ InBuf (s.srcAddr 0) 256 ∧ InBuf (s.srcAddr 1) 32 ∧ InBuf s.dstAt 256 ∧ 1 < s.pDh)
      ∧ ¬ (u.srcLen 0 = 256 ∧ u.srcLen 1 = 32)
      ∧ (v.srcLen 0 = 256 ∧ v.srcLen 1 = 32 ∧ ¬ (InBuf (v.srcAddr 0) 256 ∧ InBuf (v.srcAddr 1) 32 ∧ InBuf v.dstAt 256)) := by decide +kernel

theorem witness_dh_pub :
    let s := flying 0x21 (src 4064 32) none0 none0 3840
    let u := flying 0x21 (src 0 33) none0 none0 0
    let v := flying 0x21 (src 4065 32) none0 none0 0
    (s.srcLen 0 = 32 ∧ InBuf (s.srcAddr 0) 32 ∧ InBuf s.dstAt 256 ∧ 1 < s.pDh)
      ∧ ¬ (u.srcLen 0 = 32)
      ∧ (v.srcLen 0 = 32 ∧ ¬ (InBuf (v.srcAddr 0) 32 ∧ InBuf v.dstAt 256)) := by decide +kernel

theorem witness_dh_shared :
    let s := flying 0x22 (src 4064 32) (src 3840 256) none0 3840
    let u := flying 0x22 (src 0 33) (src 0 256) none0 0
    let v := flying 0x22 (src 4065 32) (src 0 256) none0 0
    (s.srcLen 0 = 32 ∧ s.srcLen 1 = 256 ∧ InBuf (s.srcAddr 0) 32 ∧ InBuf (s.srcAddr 1) 256 ∧ InBuf s.dstAt 256 ∧ 1 < s.pDh
      ∧ ¬ (s.lat.degen = true ∧ unpack (s.srcBytes 1) % s.pDh ∈ [0, 1, s.pDh - 1]))
      ∧ ¬ (u.srcLen 0 = 32 ∧ u.srcLen 1 = 256)
      ∧ (v.srcLen 0 = 32 ∧ v.srcLen 1 = 256 ∧ ¬ (InBuf (v.srcAddr 0) 32 ∧ InBuf (v.srcAddr 1) 256 ∧ InBuf v.dstAt 256)) := by decide +kernel

theorem witness_dh_shared_degenerate :
    let s := issued 0x22 [] (src 0 32) (src 32 256) none0 3840 true (Poly.zero .idle)
    s.srcLen 0 = 32 ∧ s.srcLen 1 = 256 ∧ InBuf (s.srcAddr 0) 32 ∧ InBuf (s.srcAddr 1) 256 ∧ InBuf s.dstAt 256
      ∧ 1 < s.pDh ∧ s.lat.degen = true ∧ unpack (s.srcBytes 1) % s.pDh ∈ [0, 1, s.pDh - 1] := by decide +kernel

theorem witness_p_init :
    let s := flying 0x30 (src 4064 32) none0 none0 0
    let u := flying 0x30 (src 0 33) none0 none0 0
    let v := flying 0x30 (src 4065 32) none0 none0 0
    (s.srcLen 0 = 32 ∧ InBuf (s.srcAddr 0) 32)
      ∧ ¬ (u.srcLen 0 = 32)
      ∧ (v.srcLen 0 = 32 ∧ ¬ (InBuf (v.srcAddr 0) 32)) := by decide +kernel

theorem witness_p_update :
    let s := flying 0x31 (src 4095 1) none0 none0 0
    let u := flying 0x31 (src 4095 2) none0 none0 0
    InBuf (s.srcAddr 0) (s.srcLen 0) ∧ s.poly.pstate = .accum ∧ ¬ InBuf (u.srcAddr 0) (u.srcLen 0) := by decide

theorem witness_p_update_state :
    let s := issued 0x31 [] (src 0 0) none0 none0 0 false (Poly.zero .idle)
    let u := issued 0x31 [] (src 0 0) none0 none0 0 false (Poly.zero .final)
    InBuf (s.srcAddr 0) (s.srcLen 0) ∧ s.poly.pstate = .idle ∧ InBuf (u.srcAddr 0) (u.srcLen 0) ∧ u.poly.pstate = .final := by decide

theorem witness_p_block :
    let s := flying 0x32 (src 4080 16) none0 none0 0
    let u := flying 0x32 (src 0 17) none0 none0 0
    let v := flying 0x32 (src 4081 16) none0 none0 0
    (s.srcLen 0 ≤ 16 ∧ InBuf (s.srcAddr 0) (s.srcLen 0) ∧ s.poly.pstate = .accum ∧ s.poly.pupd = false)
      ∧ 16 < u.srcLen 0 ∧ (v.srcLen 0 ≤ 16 ∧ ¬ InBuf (v.srcAddr 0) (v.srcLen 0)) := by decide

theorem witness_p_block_state :
    let s := fun p => issued 0x32 [] (src 0 0) none0 none0 0 false p
    let v := s { Poly.zero .accum with pupd := true }
    ((s (Poly.zero .idle)).srcLen 0 ≤ 16 ∧ InBuf ((s (Poly.zero .idle)).srcAddr 0) ((s (Poly.zero .idle)).srcLen 0)
        ∧ (s (Poly.zero .idle)).poly.pstate = .idle)
      ∧ ((s (Poly.zero .final)).srcLen 0 ≤ 16 ∧ InBuf ((s (Poly.zero .final)).srcAddr 0) ((s (Poly.zero .final)).srcLen 0)
        ∧ (s (Poly.zero .final)).poly.pstate = .final)
      ∧ (v.srcLen 0 ≤ 16 ∧ InBuf (v.srcAddr 0) (v.srcLen 0) ∧ v.poly.pstate = .accum ∧ v.poly.pupd = true) := by decide

theorem witness_p_tag :
    let s := issued 0x33 [] none0 none0 none0 4080 false absorbed
    let u := fun q => issued 0x33 [] none0 none0 none0 0 false (Poly.zero q)
    (InBuf s.dstAt 16 ∧ s.poly.pstate = .accum) ∧ ¬ InBuf (flying 0x33 none0 none0 none0 4081).dstAt 16
      ∧ (InBuf (u .idle).dstAt 16 ∧ (u .idle).poly.pstate = .idle)
      ∧ (InBuf (u .final).dstAt 16 ∧ (u .final).poly.pstate = .final) := by decide +kernel

theorem witness_storing_frame :
    let s := flying 0x10 (src 0 32) none0 none0 4064
    Instr.xClamp ∈ [Instr.xClamp, .xPadd, .xPdbl, .xInv, .xAffine, .xLadder, .xPub, .xShared, .dhModexp, .dhPub, .dhShared,
        .pTag] ∧ s.buf.wf = true ∧ (∃ t, exec .xClamp s = .next t)
      ∧ (Instr.xClamp ≠ .pTag) ∧ (4063 < s.lat.dst.toNat ∨ s.lat.dst.toNat + outlen .xClamp ≤ 4063)
      ∧ (4096 < s.lat.dst.toNat ∨ s.lat.dst.toNat + outlen .xClamp ≤ 4096) := by
  refine ⟨by decide, by decide, ?_, by decide, by decide, by decide⟩
  obtain ⟨t, h, _⟩ := exec_next .xClamp (flying 0x10 (src 0 32) none0 none0 4064)
  exact ⟨t, h⟩

theorem witness_storing_frame_error :
    ∃ t, exec .pTag (flying 0x33 none0 none0 none0 4081) = .next t ∧ decide (t.errcode ≠ .ok) = true := meets _ _ (by decide +kernel)

theorem witness_non_storing_frame :
    Instr.pBlock ∈ [Instr.nop, .pInit, .pUpdate false, .pUpdate true, .pBlock]
      ∧ ∃ t, exec .pBlock (flying 0x32 (src 4080 16) none0 none0 0) = .next t := by
  refine ⟨by decide, ?_⟩
  obtain ⟨t, h, _⟩ := exec_next .pBlock (flying 0x32 (src 4080 16) none0 none0 0)
  exact ⟨t, h⟩

theorem witness_completion_error :
    ∃ t, exec .xPub (flying 0x16 (src 0 33) none0 none0 0) = .next t ∧ decide (t.errcode ≠ .ok) = true := meets _ _ (by decide +kernel)

theorem witness_priority_error :
    (∃ t, exec .xPub (flying 0x16 (src 4090 33) none0 none0 0) = .next t ∧ decide (t.errcode ≠ .ok) = true)
      ∧ applies .invalidLength .xPub (flying 0x16 (src 4090 33) none0 none0 0)
      ∧ applies .badRange .xPub (flying 0x16 (src 4090 33) none0 none0 0) := ⟨meets _ _ (by decide +kernel), ⟨(0, .exactly 32), by decide, by decide⟩, .inl ⟨(0, .exactly 32), by decide, by decide⟩⟩

theorem witness_priority_ok :
    ∃ t, exec .nop (flying 0x00 none0 none0 none0 0) = .next t ∧ decide (t.errcode = .ok) = true := meets _ _ (by decide +kernel)

theorem witness_chunks :
    (issued 0x31 [] none0 none0 none0 0 false absorbed).poly.pstate = .accum ∧ 4094 + 1 + 1 ≤ 4096 := by decide +kernel

theorem witness_dh_symmetry :
    let s := issued 0x22 [(0, pack 32 1), (0x100, pack 256 4)] (src 0 32) (src 0x100 256) none0 3840 false (Poly.zero .idle)
    let t := issued 0x22 [(0, pack 32 2), (0x100, pack 256 2)] (src 0 32) (src 0x100 256) none0 3840 false (Poly.zero .idle)
    (t.pDh = s.pDh ∧ 1 < s.pDh ∧ s.pDh ≤ 2 ^ 2048)
      ∧ (s.srcLen 0 = 32 ∧ s.srcLen 1 = 256 ∧ InBuf (s.srcAddr 0) 32 ∧ InBuf (s.srcAddr 1) 256 ∧ InBuf s.dstAt 256)
      ∧ (t.srcLen 0 = 32 ∧ t.srcLen 1 = 256 ∧ InBuf (t.srcAddr 0) 32 ∧ InBuf (t.srcAddr 1) 256 ∧ InBuf t.dstAt 256)
      ∧ s.srcBytes 1 = pack 256 (2 ^ unpack (t.srcBytes 0) % s.pDh)
      ∧ t.srcBytes 1 = pack 256 (2 ^ unpack (s.srcBytes 0) % s.pDh)
      ∧ ¬ applies .degenerate .dhShared s ∧ ¬ applies .degenerate .dhShared t := by
  refine ⟨by decide +kernel, by decide +kernel, by decide +kernel, by decide +kernel, by decide +kernel, fun h => ?_, fun h => ?_⟩ <;> exact absurd h.1 (by decide +kernel)

theorem witness_issue :
    State.reset.busy = false := by decide

theorem witness_cmd_not_issued :
    (flying 0x00 none0 none0 none0 0).busy = true ∧ 0b0111#4 ≠ 0b1111#4 := by decide

theorem witness_reserved :
    (0x2C ≤ (0x02C#13).toNat ∧ (0x02C#13).toNat ≤ 0xFFF) ∧ (0x2C ≤ (0xFFF#13).toNat ∧ (0xFFF#13).toNat ≤ 0xFFF) := by decide

theorem witness_window_idle :
    State.reset.busy = false ∧ State.reset.buf.wf = true ∧ (0x1000 ≤ (0x1000#13).toNat ∧ (0x1000#13).toNat % 4 = 0)
      ∧ (0x1000 ≤ (0x1FFC#13).toNat ∧ (0x1FFC#13).toNat % 4 = 0) := by decide

theorem witness_window_busy :
    (flying 0x00 none0 none0 none0 0).busy = true ∧ 0x1000 ≤ (0x1000#13).toNat ∧ 0x1000 ≤ (0x1FFF#13).toNat := by decide

theorem witness_ctrl :
    ¬ ((0b0001#4).getLsbD 3 = true ∧ (0x80000003#32).getLsbD 31 = true)
      ∧ ¬ ((0b1111#4).getLsbD 3 = true ∧ (0x7FFFFFFF#32).getLsbD 31 = true) := by decide

theorem witness_soft_reset :
    let s := flying 0x16 none0 none0 none0 0x40
    s.buf.wf = true ∧ (0b1000#4).getLsbD 3 = true ∧ (0x80000000#32).getLsbD 31 = true ∧ s.busy = true
      ∧ decode s.lat.word = .ok .xPub ∧ (0x3F < s.lat.dst.toNat ∨ s.lat.dst.toNat + outlen .xPub ≤ 0x3F)
      ∧ (0x60 < s.lat.dst.toNat ∨ s.lat.dst.toNat + outlen .xPub ≤ 0x60) := by decide

theorem witness_soft_reset_illegal :
    let s := flying 0x116 (src 0 32) none0 none0 0x40
    s.buf.wf = true ∧ s.busy = true ∧ decode s.lat.word = .error .padNotAllowed := by decide

theorem witness_power_on :
    4095 < 4096 ∧ 4095 < (List.replicate 4096 0xA5#8).length := ⟨by decide, by rw [List.length_replicate]; decide⟩

theorem witness_interrupt :
    EngineMoves (flying 0x116 none0 none0 none0 0) ∧ EngineMoves (flying 0x00 none0 none0 none0 0)
      ∧ ((0b0001#4).getLsbD 0 = true ∧ (0x00000002#32).getLsbD 1 = true) ∧ State.reset.busy = false
      ∧ ((0b0001#4).getLsbD 0 = true ∧ (0x80000001#32).getLsbD 1 = false
        ∧ ¬ ((0b0001#4).getLsbD 3 = true ∧ (0x80000001#32).getLsbD 31 = true))
      ∧ ((0b1111#4).getLsbD 0 = true ∧ (0x00000002#32).getLsbD 1 = true
        ∧ ¬ ((0b1111#4).getLsbD 3 = true ∧ (0x00000002#32).getLsbD 31 = true))
      ∧ ((0b1000#4).getLsbD 3 = true ∧ (0x80000002#32).getLsbD 31 = true) := ⟨⟨rfl, .inr rfl⟩, ⟨rfl, .inr rfl⟩, by decide⟩

theorem witness_interrupt_rises :
    let s := { flying 0x00 none0 none0 none0 0 with irqEn := true }
    let u := { State.reset with done := true, turns := [.write 0x004#13 0x00000002#32 0b0001#4] }
    (s.irq = false ∧ ∃ t, step s = .next t ∧ t.irq = true) ∧ (u.irq = false ∧ ∃ t, step u = .next t ∧ t.irq = true) := ⟨⟨by decide, meets _ _ (by decide +kernel)⟩, ⟨by decide, meets _ _ (by decide +kernel)⟩⟩

theorem witness_interrupt_falls :
    let s := fun t => { State.reset with done := true, irqEn := true, turns := [t] }
    (s .engine).irq = true ∧ (∃ t, step (s (.write 0x008#13 2#32 0b0001#4)) = .next t ∧ (!t.irq) = true)
      ∧ (∃ t, step (s (.write 0x00C#13 0#32 0b1111#4)) = .next t ∧ (!t.irq) = true)
      ∧ (∃ t, step (s (.write 0x004#13 0x80000000#32 0b1000#4)) = .next t ∧ (!t.irq) = true)
      ∧ (∃ t, step (s (.write 0x004#13 0#32 0b0001#4)) = .next t ∧ (!t.irq && t.done) = true)
      ∧ ∃ t, step (s (.powerOn [])) = .next t ∧ (!t.irq) = true := ⟨by decide, meets _ _ (by decide +kernel), meets _ _ (by decide +kernel), meets _ _ (by decide +kernel), meets _ _ (by decide +kernel), meets _ _ (by decide +kernel)⟩

theorem witness_undisturbed :
    (flying 0x00 none0 none0 none0 0).busy = true
      ∧ ¬ ((0x1FFC#13).toNat / 4 = 1 ∧ (0b1111#4).getLsbD 3 = true ∧ (0xFFFFFFFF#32).getLsbD 31 = true)
      ∧ ¬ ((0x004#13).toNat / 4 = 1 ∧ (0b0111#4).getLsbD 3 = true ∧ (0xFFFFFFFF#32).getLsbD 31 = true) := by decide

theorem witness_line :
    let c : CommandLine := { instr := .xShared, dst := some 4064, sources := [{ addr := 4095, len := 8191 }, { addr := 0, len := 32 }] }
    c.wf = true ∧ State.reset.busy = false ∧ c.sources[(1 : Fin 3).val]? = some { addr := 0, len := 32 }
      ∧ c.sources[(2 : Fin 3).val]? = none := by decide

theorem witness_wrb :
    State.reset.busy = false ∧ State.reset.buf.wf = true ∧ 4062 + message.length ≤ 4096 := by decide +kernel

theorem witness_rdb :
    State.reset.busy = false ∧ 4062 + 34 ≤ 4096 ∧ 4096 + 0 ≤ 4096 := by decide

theorem witness_step :
    let s := flying 0x131 none0 none0 none0 0
    let u := { flying 0x116 none0 none0 none0 0 with turns := [.engine, .engine] }
    (s.busy = true ∧ decode s.lat.word = .ok (.pUpdate true) ∧ s.turns = [.engine])
      ∧ ({ s with turns := [] } : State).turns = []
      ∧ (u.busy = true ∧ (fieldsOf u.lat.word).wf = false ∧ u.turns = [.engine, .engine]) := by decide

theorem witness_invariant :
    (flying 0x31 (src 0 1) none0 none0 0).inv = true ∧ ∃ t, step (flying 0x31 (src 0 1) none0 none0 0) = .next t := by
  refine ⟨by decide +kernel, ?_⟩
  obtain ⟨t, h, _⟩ := step_next (flying 0x31 (src 0 1) none0 none0 0)
  exact ⟨t, h⟩

theorem witness_invariant_parameter :
    Config.pDh % 2 = 1 ∧ 2 ^ 2047 ≤ Config.pDh ∧ Config.pDh < 2 ^ 2048 := by decide +kernel

theorem witness_hidden :
    let s := issued 0x31 [] none0 none0 none0 0 false absorbed
    let t := issued 0x31 [] none0 none0 none0 0 false (Poly.zero .accum)
    s.visible = t.visible ∧ ¬ (EngineMoves s ∧ decode s.lat.word = .ok .pTag) ∧ s ≠ t := ⟨by decide +kernel, fun h => absurd h.2 (by decide), by decide +kernel⟩

theorem witness_hidden_tag_in_flight :
    let s := { issued 0x33 [] none0 none0 none0 0 false absorbed with turns := [.read 0x008#13] }
    let t := { issued 0x33 [] none0 none0 none0 0 false (Poly.zero .accum) with turns := [.read 0x008#13] }
    s.visible = t.visible ∧ ¬ (EngineMoves s ∧ decode s.lat.word = .ok .pTag) ∧ s ≠ t ∧ s.busy = true
      ∧ decode s.lat.word = .ok .pTag := by
  refine ⟨by decide +kernel, fun h => ?_, by decide +kernel, rfl, by decide⟩
  rcases h.1.2 with h | h <;> cases h

theorem witness_latch :
    State.reset.busy = false := by decide

theorem witness_events_poly :
    ∃ t, step (issued 0x30 [] (src 0 32) none0 none0 0 false (Poly.zero .idle)) = .next t
      ∧ decide (t.poly ≠ Poly.zero .idle) = true := meets _ _ (by decide +kernel)

theorem witness_events_buf :
    ∃ t, step (flying 0x10 (src 0 32) none0 none0 0) = .next t ∧ decide (t.buf ≠ []) = true := meets _ _ (by decide +kernel)

theorem witness_events_busy :
    State.reset.busy = false ∧ (flying 0x00 none0 none0 none0 0).busy = true
      ∧ (∃ t, step { State.reset with turns := [.write 0x00C#13 0#32 0b1111#4] } = .next t ∧ t.busy = true)
      ∧ ∃ t, step (flying 0x00 none0 none0 none0 0) = .next t ∧ (t.done && !t.busy) = true := ⟨by decide, by decide, meets _ _ (by decide +kernel), meets _ _ (by decide +kernel)⟩

theorem witness_events_records :
    (flying 0x00 none0 none0 none0 0).done = false ∧ (flying 0x00 none0 none0 none0 0).cmdOvr = false
      ∧ (flying 0x00 none0 none0 none0 0).bufConf = false
      ∧ (∃ t, step { flying 0x00 none0 none0 none0 0 with turns := [.write 0x00C#13 0#32 0b1111#4] } = .next t ∧ t.cmdOvr = true)
      ∧ ∃ t, step { flying 0x00 none0 none0 none0 0 with turns := [.read 0x1000#13] } = .next t ∧ t.bufConf = true := ⟨by decide, by decide, by decide, meets _ _ (by decide +kernel), meets _ _ (by decide +kernel)⟩

theorem witness_events_records_fall :
    let s := fun t => { State.reset with done := true, cmdOvr := true, bufConf := true, turns := [t] }
    (∃ t, step (s (.write 0x008#13 0x0000000E#32 0b0001#4)) = .next t ∧ (!t.done && !t.cmdOvr && !t.bufConf) = true)
      ∧ (∃ t, step (s (.write 0x00C#13 0#32 0b1111#4)) = .next t ∧ (!t.done) = true)
      ∧ (∃ t, step (s (.write 0x004#13 0x80000000#32 0b1000#4)) = .next t ∧ (!t.done && !t.cmdOvr && !t.bufConf) = true)
      ∧ ∃ t, step (s (.powerOn [])) = .next t ∧ (!t.done && !t.cmdOvr && !t.bufConf) = true := ⟨meets _ _ (by decide +kernel), meets _ _ (by decide +kernel), meets _ _ (by decide +kernel), meets _ _ (by decide +kernel)⟩

end Sys2Proof.Tests
end

section
/-! What one step can do, said once: the state with the turn taken up, the turn a step plays, and an inversion of `step` by the
events the spec names (R800-R804, R1000, R1003). -/

namespace Sys2Proof.Machine

/-! ### The turn a step plays. -/

/-- The state once the turn at the head of `turns` is taken up. -/
def State.popTurn (s : State) : State := { s with turns := s.turns.tail }

@[simp] theorem State.popTurn_busy (s : State) : s.popTurn.busy = s.busy := rfl

@[simp] theorem State.popTurn_done (s : State) : s.popTurn.done = s.done := rfl

@[simp] theorem State.popTurn_cmdOvr (s : State) : s.popTurn.cmdOvr = s.cmdOvr := rfl

@[simp] theorem State.popTurn_bufConf (s : State) : s.popTurn.bufConf = s.bufConf := rfl

@[simp] theorem State.popTurn_buf (s : State) : s.popTurn.buf = s.buf := rfl

@[simp] theorem State.popTurn_poly (s : State) : s.popTurn.poly = s.poly := rfl

@[simp] theorem State.popTurn_lat (s : State) : s.popTurn.lat = s.lat := rfl

@[simp] theorem State.popTurn_pDh (s : State) : s.popTurn.pDh = s.pDh := rfl

@[simp] theorem powerOnTurn_busy (init : List Byte) (s : State) : (powerOnTurn init s).busy = false := rfl

@[simp] theorem powerOnTurn_done (init : List Byte) (s : State) : (powerOnTurn init s).done = false := rfl

@[simp] theorem powerOnTurn_cmdOvr (init : List Byte) (s : State) : (powerOnTurn init s).cmdOvr = false := rfl

@[simp] theorem powerOnTurn_bufConf (init : List Byte) (s : State) : (powerOnTurn init s).bufConf = false := rfl

theorem State.popTurn_of_nil {s : State} (h : s.turns = []) : s.popTurn = s := by
  have htail : s.turns.tail = s.turns := by rw [h]; rfl
  rw [State.popTurn, htail]

/-- A step plays the turn at the head; with none left, the engine's (R800, R808). -/
theorem step_eq_takeTurn (s : State) : step s = takeTurn (s.turns.headD .engine) s.popTurn := by
  unfold step
  split
  · rename_i h
    rw [h, State.popTurn_of_nil h]
    rfl
  · rename_i t rest h
    simp [State.popTurn, h]

/-- A turn other than the engine's stands in the list. -/
theorem head?_of_headD {ts : List Turn} {t : Turn} (h : ts.headD .engine = t) (ht : t ≠ .engine) : ts.head? = some t := by
  cases ts with
  | nil => exact absurd h.symm ht
  | cons a rest => exact congrArg some h

/-- The engine's turn is at the head or no turn is left. -/
theorem engineMoves_of_headD {s : State} (hb : s.busy = true) (h : s.turns.headD .engine = .engine) : EngineMoves s := by
  refine ⟨hb, ?_⟩
  cases hs : s.turns with
  | nil => exact .inl rfl
  | cons a rest =>
    rw [hs] at h
    exact .inr (congrArg some h)

/-! ### Register writes as equations. -/

/-- A STATUS write (R106, R207). -/
theorem writeStatus_eq (v : Word) (strb : BitVec 4) (s : State) : writeStatus v strb s = { s with
    done := s.done && !(strb.getLsbD 0 && v.getLsbD 1)
    cmdOvr := s.cmdOvr && !(strb.getLsbD 0 && v.getLsbD 2)
    bufConf := s.bufConf && !(strb.getLsbD 0 && v.getLsbD 3) } := by
  have hbit : ∀ i, i < 8 → (merge 0x00000000#32 v strb).getLsbD i = (strb.getLsbD 0 && v.getLsbD i) := by
    intro i hi
    rw [getLsbD_merge _ _ _ (by omega), show i / 8 = 0 by omega]
    cases strb.getLsbD 0 <;> simp
  simp only [writeStatus, hbit 1 (by decide), hbit 2 (by decide), hbit 3 (by decide)]

/-- CTRL's live bits as read (R105). -/
theorem getLsbD_ctrlWord (s : State) : s.ctrlWord.getLsbD 0 = s.degenChk ∧ s.ctrlWord.getLsbD 1 = s.irqEn := by
  unfold State.ctrlWord
  cases s.degenChk <;> cases s.irqEn <;> decide

/-- A CTRL write that is no soft reset (R105, R207). -/
theorem writeCtrl_eq {v : Word} {strb : BitVec 4} (s : State) (h : ¬ (strb.getLsbD 3 = true ∧ v.getLsbD 31 = true)) :
    writeCtrl v strb s = { s with
      degenChk := if strb.getLsbD 0 then v.getLsbD 0 else s.degenChk
      irqEn := if strb.getLsbD 0 then v.getLsbD 1 else s.irqEn } := by
  obtain ⟨hdegen, hirq⟩ := getLsbD_ctrlWord s
  simp only [writeCtrl, if_neg h, getLsbD_merge _ _ _ (show 0 < 32 by decide), getLsbD_merge _ _ _ (show 1 < 32 by decide),
    show 1 / 8 = 0 by decide, hdegen, hirq]

/-- A CTRL write with SRST set in a strobed byte 3 (R1003). -/
theorem writeCtrl_srst {v : Word} {strb : BitVec 4} (s : State) (h : strb.getLsbD 3 = true ∧ v.getLsbD 31 = true) :
    writeCtrl v strb s = s.softReset := if_pos h

/-- A CMD write with a byte unstrobed (R208). -/
theorem writeCmd_partial {strb : BitVec 4} (h : strb ≠ 0b1111#4) (v : Word) (s : State) : writeCmd v strb s = s := if_pos h

/-- A full CMD write while a command is in flight (R803). -/
theorem writeCmd_busy {s : State} (hb : s.busy = true) (v : Word) :
    writeCmd v 0b1111#4 s = { s with cmdOvr := true } := by
  rw [writeCmd, if_neg (not_not.2 rfl), if_pos hb]

/-- A full CMD write while nothing is in flight (R801). -/
theorem writeCmd_idle {s : State} (hb : s.busy = false) (v : Word) : writeCmd v 0b1111#4 s = s.issue v := by
  rw [writeCmd, if_neg (not_not.2 rfl), if_neg (Bool.eq_false_iff.1 hb)]

/-! ### Host accesses as equations, by what the offset names. -/

/-- The offsets of the BUF window (R201). -/
theorem le_of_busTarget_window {o : BitVec 13} {a : Nat} (h : busTarget o = .window a) : 0x1000 ≤ o.toNat := by
  unfold busTarget at h
  simp only at h
  split at h
  · clear h
    omega
  · split at h <;> cases h

/-- A read of a register (R210). -/
theorem hostRead_reg {o : BitVec 13} {r : Reg} (h : busTarget o = .reg r) (s : State) :
    hostRead o s = { s with rdata := some (regRead r s) } := by
  rw [hostRead, h]

/-- A read of a reserved offset (R209). -/
theorem hostRead_reserved {o : BitVec 13} (h : busTarget o = .reserved) (s : State) :
    hostRead o s = { s with rdata := some 0x00000000#32 } := by
  rw [hostRead, h]

/-- A window read while a command is in flight (R212). -/
theorem hostRead_window_busy {o : BitVec 13} {a : Nat} (h : busTarget o = .window a) {s : State} (hb : s.busy = true) :
    hostRead o s = { s with rdata := some 0x00000000#32, bufConf := true } := by
  rw [hostRead, h]
  exact if_pos hb

/-- A window read while nothing is in flight (R204). -/
theorem hostRead_window_idle {o : BitVec 13} {a : Nat} (h : busTarget o = .window a) {s : State} (hb : s.busy = false) :
    hostRead o s = { s with rdata := some (windowWord s.buf a) } := by
  rw [hostRead, h]
  exact if_neg (Bool.eq_false_iff.1 hb)

/-- A write to a register (R207). -/
theorem hostWrite_reg {o : BitVec 13} {r : Reg} (h : busTarget o = .reg r) (v : Word) (strb : BitVec 4) (s : State) :
    hostWrite o v strb s = regWrite r v strb s := by
  rw [hostWrite, h]

/-- A write to a reserved offset (R209). -/
theorem hostWrite_reserved {o : BitVec 13} (h : busTarget o = .reserved) (v : Word) (strb : BitVec 4) (s : State) :
    hostWrite o v strb s = s := by
  rw [hostWrite, h]

/-- A window write while a command is in flight (R212). -/
theorem hostWrite_window_busy {o : BitVec 13} {a : Nat} (h : busTarget o = .window a) (v : Word) (strb : BitVec 4)
    {s : State} (hb : s.busy = true) : hostWrite o v strb s = { s with bufConf := true } := by
  rw [hostWrite, h]
  exact if_pos hb

/-- A window write while nothing is in flight (R204). -/
theorem hostWrite_window_idle {o : BitVec 13} {a : Nat} (h : busTarget o = .window a) (v : Word) (strb : BitVec 4)
    {s : State} (hb : s.busy = false) : hostWrite o v strb s = { s with buf := writeWindow s.buf a v strb } := by
  rw [hostWrite, h]
  exact if_neg (Bool.eq_false_iff.1 hb)

/-! ### The engine's turn as equations. -/

/-- The engine's turn while nothing is in flight (assumption log 3). -/
theorem engineTurn_idle {s : State} (hb : s.busy = false) : engineTurn s = .next s := if_neg (Bool.eq_false_iff.1 hb)

/-- The engine's turn on an illegal word (R308, R901). -/
theorem engineTurn_illegal {s : State} {e : DecodeError} (hb : s.busy = true) (hd : decode s.lat.word = .error e) :
    engineTurn s = .next (s.failed .illegalCmd) := by
  rw [engineTurn, if_pos hb, completion, hd, State.completeWith_eq_failed]

/-- The engine's turn on a legal command (R802, R804). -/
theorem engineTurn_legal {s : State} {i : Instr} (hb : s.busy = true) (hd : decode s.lat.word = .ok i) :
    engineTurn s = exec i s := by
  rw [engineTurn, if_pos hb, completion, hd]

/-! ### The events of a step. -/

/-- The ways one step from `s` can go, each with the event that causes it and the state it leaves. -/
inductive StepEvent (s : State) : State → Prop
  /-- The engine's turn while nothing is in flight (assumption log 3). -/
  | idleEngine (hb : s.busy = false) : StepEvent s s.popTurn
  /-- A completion with an error (R904). -/
  | failed (e : ErrCode) (he : EngineMoves s) : StepEvent s (s.popTurn.failed e)
  /-- A completion with ERRCODE 0 (R905). -/
  | succeeded (i : Instr) (eff : Effect) (he : EngineMoves s) (hd : decode s.lat.word = .ok i)
      (hc : check i s.lat s.poly = .ok) (ho : operationOf s.pDh i (inputsOf i s) = .ok eff)
      (hl : eff.out.length = outlen i) : StepEvent s (s.popTurn.succeeded eff.out eff.poly)
  /-- Power-on (R1000). -/
  | powerOn (init : List Byte) (ht : s.turns.head? = some (.powerOn init)) : StepEvent s (powerOnTurn init s.popTurn)
  /-- Soft reset (R1003). -/
  | softReset (hr : SoftResets s) : StepEvent s s.popTurn.softReset
  /-- A read outside the window, or in it while nothing is in flight (R210, R204). -/
  | read (w : Word) : StepEvent s { s.popTurn with rdata := some w }
  /-- A window read while a command is in flight (R212). -/
  | conflictRead (hb : s.busy = true) (hw : AccessesWindow s) :
      StepEvent s { s.popTurn with rdata := some 0x00000000#32, bufConf := true }
  /-- A window write while a command is in flight (R212). -/
  | conflictWrite (hb : s.busy = true) (hw : AccessesWindow s) : StepEvent s { s.popTurn with bufConf := true }
  /-- A window write while nothing is in flight (R204). -/
  | windowWrite (o : BitVec 13) (a : Nat) (v : Word) (strb : BitVec 4) (hb : s.busy = false)
      (ht : s.turns.head? = some (.write o v strb)) (ha : busTarget o = .window a) :
      StepEvent s { s.popTurn with buf := writeWindow s.buf a v strb }
  /-- A STATUS write (R106). -/
  | statusWrite (o : BitVec 13) (v : Word) (strb : BitVec 4) (ht : s.turns.head? = some (.write o v strb))
      (hk : o.toNat / 4 = 2) : StepEvent s { s.popTurn with
        done := s.done && !(strb.getLsbD 0 && v.getLsbD 1)
        cmdOvr := s.cmdOvr && !(strb.getLsbD 0 && v.getLsbD 2)
        bufConf := s.bufConf && !(strb.getLsbD 0 && v.getLsbD 3) }
  /-- Issue of a command (R801). -/
  | issue (w : Word) (hi : IssuesCommand s) : StepEvent s (s.popTurn.issue w)
  /-- A full CMD write dropped while a command is in flight (R803). -/
  | overrun (hb : s.busy = true) (hw : HostWrites s 3 fun _ strb => strb = 0b1111#4) :
      StepEvent s { s.popTurn with cmdOvr := true }
  /-- A write to CTRL that is no soft reset, to a descriptor, or without effect (R105, R108, R109, R208, R209). -/
  | operands (degenChk irqEn : Bool) (src : Vector Descriptor 3) (dst : BitVec 12) :
      StepEvent s { s.popTurn with degenChk, irqEn, src, dst }

/-- A host read is one of the events. -/
theorem stepEvent_hostRead {s : State} {o : BitVec 13} (ht : s.turns.head? = some (.read o)) :
    StepEvent s (hostRead o s.popTurn) := by
  cases ha : busTarget o with
  | reg r =>
    rw [hostRead_reg ha]
    exact .read _
  | reserved =>
    rw [hostRead_reserved ha]
    exact .read _
  | window a =>
    cases hb : s.busy with
    | true =>
      rw [hostRead_window_busy ha (s := s.popTurn) hb]
      exact .conflictRead hb ⟨o, le_of_busTarget_window ha, .inl ht⟩
    | false =>
      rw [hostRead_window_idle ha (s := s.popTurn) hb]
      exact .read _

/-- A write to a register is one of the events. -/
theorem stepEvent_regWrite {s : State} {o : BitVec 13} {v : Word} {strb : BitVec 4} {r : Reg}
    (ht : s.turns.head? = some (.write o v strb)) (hr : busTarget o = .reg r) :
    StepEvent s (regWrite r v strb s.popTurn) := by
  cases r with
  | ctrl =>
    by_cases h : strb.getLsbD 3 = true ∧ v.getLsbD 31 = true
    · rw [regWrite, writeCtrl_srst _ h]
      exact .softReset ⟨o, v, strb, ht, busTarget_ctrl hr, h⟩
    · rw [regWrite, writeCtrl_eq _ h]
      exact .operands _ _ _ _
  | status =>
    rw [regWrite, writeStatus_eq]
    exact .statusWrite o v strb ht (busTarget_status hr)
  | cmd =>
    by_cases hs : strb = 0b1111#4
    · subst hs
      have hw : HostWrites s 3 fun _ strb => strb = 0b1111#4 := ⟨o, v, _, ht, busTarget_cmd hr, rfl⟩
      cases hb : s.busy with
      | true =>
        rw [regWrite, writeCmd_busy (s := s.popTurn) hb]
        exact .overrun hb hw
      | false =>
        rw [regWrite, writeCmd_idle (s := s.popTurn) hb]
        exact .issue v ⟨hb, hw⟩
    · rw [regWrite, writeCmd_partial hs]
      exact .operands _ _ _ _
  | _ => exact .operands _ _ _ _

/-- A host write is one of the events. -/
theorem stepEvent_hostWrite {s : State} {o : BitVec 13} {v : Word} {strb : BitVec 4}
    (ht : s.turns.head? = some (.write o v strb)) : StepEvent s (hostWrite o v strb s.popTurn) := by
  cases ha : busTarget o with
  | reg r =>
    rw [hostWrite_reg ha]
    exact stepEvent_regWrite ht ha
  | reserved =>
    rw [hostWrite_reserved ha]
    exact .operands _ _ _ _
  | window a =>
    cases hb : s.busy with
    | true =>
      rw [hostWrite_window_busy ha v strb (s := s.popTurn) hb]
      exact .conflictWrite hb ⟨o, le_of_busTarget_window ha, .inr ⟨v, strb, ht⟩⟩
    | false =>
      rw [hostWrite_window_idle ha v strb (s := s.popTurn) hb]
      exact .windowWrite o a v strb hb ht ha

/-- The engine's turn is one of the events (R802). -/
theorem stepEvent_engineTurn {s t : State} (hm : s.turns.headD .engine = .engine) (h : engineTurn s.popTurn = .next t) :
    StepEvent s t := by
  cases hb : s.busy with
  | false =>
    cases (engineTurn_idle (s := s.popTurn) hb).symm.trans h
    exact .idleEngine hb
  | true =>
    have he := engineMoves_of_headD hb hm
    cases hd : decode s.lat.word with
    | error e =>
      cases (engineTurn_illegal (s := s.popTurn) hb hd).symm.trans h
      exact .failed _ he
    | ok i =>
      rw [engineTurn_legal (s := s.popTurn) hb hd] at h
      rcases exec_cases i s.popTurn with ⟨-, hx⟩ | ⟨e, -, -, hx⟩ | ⟨eff, hc, ho, hl, hx⟩ <;> cases hx.symm.trans h
      · exact .failed _ he
      · exact .failed _ he
      · exact .succeeded i eff he hd hc ho hl

/-- Every step is one of the events (R800). -/
theorem stepEvent_of_step {s t : State} (h : step s = .next t) : StepEvent s t := by
  rw [step_eq_takeTurn] at h
  cases hm : s.turns.headD .engine with
  | engine =>
    rw [hm] at h
    exact stepEvent_engineTurn hm h
  | read o =>
    rw [hm] at h
    cases h
    exact stepEvent_hostRead (head?_of_headD hm (by simp))
  | write o v strb =>
    rw [hm] at h
    cases h
    exact stepEvent_hostWrite (head?_of_headD hm (by simp))
  | powerOn init =>
    rw [hm] at h
    cases h
    exact .powerOn init (head?_of_headD hm (by simp))

end Sys2Proof.Machine
end

section
/-! The invariant `State.inv` of the block at reset and after every step (R121, R123). -/

namespace Sys2Proof.Machine

/-! ### The invariant of P, clause by clause. -/

theorem Poly.wf_iff (p : Poly) : p.wf = true ↔
    p.pacc < Config.p1305 ∧ p.pr &&& ~~~Config.rMask = 0#128 ∧ (∀ b ∈ p.ptail.toList.drop p.ptlen, b = 0#8) ∧
      (p.ptlen.val = 0 ∨ p.pupd = true) ∧ (p.pstate = .accum ∨ p = Poly.zero p.pstate) := by
  simp only [Poly.wf, Bool.and_eq_true, Bool.or_eq_true, decide_eq_true_eq, beq_iff_eq, List.all_eq_true, and_assoc]

/-- An empty PTAIL is zero throughout. -/
theorem replicate_tail_zero : ∀ b ∈ (Vector.replicate 15 0#8).toList.drop (0 : Fin 16), b = 0#8 := by decide

theorem Poly.wf_zero (q : PState) : (Poly.zero q).wf = true := by cases q <;> decide

/-- A freshly loaded key (R702). -/
theorem Poly.wf_load (k : List Byte) : (Poly.load k).wf = true := by
  rw [Poly.wf_iff]
  refine ⟨show 0 < Config.p1305 by decide, ?_, replicate_tail_zero, .inl rfl, .inl rfl⟩
  show (BitVec.ofNat 128 (unpack (k.take 16)) &&& Config.rMask) &&& ~~~Config.rMask = 0#128
  rw [BitVec.and_assoc]
  exact BitVec.and_zero

@[simp] theorem Poly.absorb_pstate (p : Poly) (c : List Byte) : (p.absorb c).pstate = p.pstate := rfl

@[simp] theorem Poly.absorb_pupd (p : Poly) (c : List Byte) : (p.absorb c).pupd = p.pupd := rfl

/-- Absorbing a chunk reduces PACC and leaves the rest (R701). -/
theorem Poly.wf_absorb {p : Poly} (h : p.wf = true) (ha : p.pstate = .accum) (c : List Byte) : (p.absorb c).wf = true := by
  obtain ⟨-, hr, htail, hupd, -⟩ := (Poly.wf_iff p).1 h
  exact (Poly.wf_iff _).2 ⟨Nat.mod_lt _ (by decide), hr, htail, hupd, .inl ha⟩

@[simp] theorem Poly.feed_pstate (p : Poly) (x : Byte) : (p.feed x).pstate = p.pstate := by
  unfold Poly.feed
  split <;> rfl

@[simp] theorem Poly.feed_pupd (p : Poly) (x : Byte) : (p.feed x).pupd = p.pupd := by
  unfold Poly.feed
  split <;> rfl

/-- One byte of the stream: a full block empties PTAIL, else the byte takes the first free place (R703). -/
theorem Poly.wf_feed {p : Poly} (h : p.wf = true) (ha : p.pstate = .accum) (hu : p.pupd = true) (x : Byte) :
    (p.feed x).wf = true := by
  obtain ⟨hacc, hr, htail, -, -⟩ := (Poly.wf_iff p).1 h
  rw [Poly.wf_iff]
  unfold Poly.feed
  split
  case isTrue => exact ⟨Nat.mod_lt _ (by decide), hr, replicate_tail_zero, .inl rfl, .inl ha⟩
  case isFalse =>
    refine ⟨hacc, hr, fun b hb => htail b ?_, .inr hu, .inl ha⟩
    rw [Vector.toList_set, List.drop_set_of_lt (Nat.lt_succ_self _)] at hb
    exact List.mem_of_mem_drop (List.drop_drop ▸ hb : b ∈ (p.ptail.toList.drop p.ptlen).drop 1)

theorem Poly.foldl_feed_pstate (p : Poly) (seg : List Byte) : (seg.foldl Poly.feed p).pstate = p.pstate := by
  induction seg generalizing p with
  | nil => rfl
  | cons x xs ih => rw [List.foldl_cons, ih, Poly.feed_pstate]

theorem Poly.foldl_feed_pupd (p : Poly) (seg : List Byte) : (seg.foldl Poly.feed p).pupd = p.pupd := by
  induction seg generalizing p with
  | nil => rfl
  | cons x xs ih => rw [List.foldl_cons, ih, Poly.feed_pupd]

theorem Poly.wf_foldl_feed {p : Poly} (h : p.wf = true) (ha : p.pstate = .accum) (hu : p.pupd = true) (seg : List Byte) :
    (seg.foldl Poly.feed p).wf = true := by
  induction seg generalizing p with
  | nil => exact h
  | cons x xs ih => exact ih (Poly.wf_feed h ha hu x) (by rw [Poly.feed_pstate, ha]) (by rw [Poly.feed_pupd, hu])

@[simp] theorem Poly.update_pstate (p : Poly) (seg : List Byte) : (p.update seg).pstate = p.pstate :=
  Poly.foldl_feed_pstate _ seg

@[simp] theorem Poly.update_pupd (p : Poly) (seg : List Byte) : (p.update seg).pupd = (p.pupd || !seg.isEmpty) :=
  Poly.foldl_feed_pupd _ seg

/-- A whole segment: PUPD is set before the first byte, so every byte finds it set (R703). -/
theorem Poly.wf_update {p : Poly} (h : p.wf = true) (ha : p.pstate = .accum) (seg : List Byte) : (p.update seg).wf = true := by
  cases seg with
  | nil => simpa [Poly.update] using h
  | cons x xs =>
    obtain ⟨hacc, hr, htail, -, -⟩ := (Poly.wf_iff p).1 h
    have hu : (p.pupd || !(x :: xs).isEmpty) = true := Bool.or_true _
    have hstart : ({ p with pupd := p.pupd || !(x :: xs).isEmpty } : Poly).wf = true :=
      (Poly.wf_iff _).2 ⟨hacc, hr, htail, .inr hu, .inl ha⟩
    exact Poly.wf_foldl_feed hstart ha hu (x :: xs)

/-- The commands that write P (R111). -/
def writesPoly (i : Instr) : Prop := i ∈ [Instr.pInit, .pUpdate false, .pUpdate true, .pBlock, .pTag]

/-- Every other operation leaves P as it found it (R111). -/
theorem poly_operationOf {m : Nat} {i : Instr} {inp : Inputs} {eff : Effect} (ho : operationOf m i inp = .ok eff)
    (hi : ¬ writesPoly i) : eff.poly = inp.poly := by
  cases i with
  | pInit => exact absurd (by simp [writesPoly]) hi
  | pUpdate pad => cases pad <;> exact absurd (by simp [writesPoly]) hi
  | pBlock => exact absurd (by simp [writesPoly]) hi
  | pTag => exact absurd (by simp [writesPoly]) hi
  | xLadder =>
    simp only [operationOf, opXLadder] at ho
    split at ho <;> cases ho
    rfl
  | xShared =>
    simp only [operationOf, opXShared] at ho
    split at ho <;> cases ho
    rfl
  | dhShared =>
    simp only [operationOf, opDhShared] at ho
    split at ho <;> cases ho
    rfl
  | _ =>
    cases ho
    rfl

/-- Every operation that passes the checks leaves P well formed (R121, R123). -/
theorem Poly.wf_operationOf {m : Nat} {i : Instr} {s : State} {eff : Effect} (hp : s.poly.wf = true)
    (hc : check i s.lat s.poly = .ok) (ho : operationOf m i (inputsOf i s) = .ok eff) : eff.poly.wf = true := by
  obtain ⟨-, -, -, haccum, -⟩ := check_eq_ok hc
  by_cases hi : writesPoly i
  · cases i with
    | pInit =>
      cases ho
      exact Poly.wf_load _
    | pUpdate pad =>
      cases ho
      exact Poly.wf_update hp (haccum rfl) _
    | pBlock =>
      cases ho
      exact Poly.wf_absorb hp (haccum rfl) _
    | pTag =>
      cases ho
      exact Poly.wf_zero .final
    | _ => exact absurd hi (by simp [writesPoly])
  · rw [poly_operationOf ho hi]
    exact hp

/-! ### The invariant of the block. -/

/-- A passed check means the result fits at LAT.dst (R214, R902). -/
theorem dst_add_outlen_le {i : Instr} {l : Latch} {p : Poly} (hc : check i l p = .ok) :
    l.dst.toNat + outlen i ≤ Config.bufSize := by
  obtain ⟨-, -, hd, -, -⟩ := check_eq_ok hc
  have hlt := l.dst.isLt
  rw [dstInRange, Bool.or_eq_true, beq_iff_eq, decide_eq_true_eq] at hd
  rcases hd with hzero | hle
  · rw [hzero]
    exact hlt.le
  · exact hle

theorem State.inv_iff (s : State) : s.inv = true ↔
    s.buf.wf = true ∧ s.poly.wf = true ∧ Config.admitsPDh s.pDh = true ∧
      (s.busy = true → s.done = false ∧ s.errcode = .ok ∧ s.lat.word = s.cmd) := by
  cases hb : s.busy <;> simp [State.inv, hb, and_assoc]

/-- P_DH of R601. -/
theorem admitsPDh_iff (m : Nat) : Config.admitsPDh m = true ↔ m % 2 = 1 ∧ 2 ^ 2047 ≤ m ∧ m < 2 ^ 2048 := by
  simp only [Config.admitsPDh, Bool.and_eq_true, beq_iff_eq, decide_eq_true_eq, and_assoc]

/-- Power-on of a machine with an admitted P_DH (R1001). -/
theorem State.inv_powerOn {pDh : Nat} (h : Config.admitsPDh pDh = true) (init : List Byte) :
    (State.powerOn pDh init).inv = true :=
  (State.inv_iff _).2 ⟨Memory.wf_ofBytes init, Poly.wf_zero .idle, h, by simp⟩

/-- Every event of a step keeps the invariant. -/
theorem StepEvent.inv {s t : State} (h : StepEvent s t) (hs : s.inv = true) : t.inv = true := by
  obtain ⟨hbuf, hpoly, hdh, hbusy⟩ := (State.inv_iff s).1 hs
  rw [State.inv_iff]
  cases h with
  | failed e he => exact ⟨hbuf, hpoly, hdh, by simp⟩
  | succeeded i eff he hd hc ho hl =>
    refine ⟨Memory.wf_writeBytes hbuf ?_, Poly.wf_operationOf hpoly hc ho, hdh, by simp⟩
    rw [hl]
    exact dst_add_outlen_le hc
  | powerOn init ht => exact ⟨Memory.wf_ofBytes init, Poly.wf_zero .idle, hdh, by simp⟩
  | softReset hr => exact ⟨wf_scrambleBytes hbuf _ _ _, Poly.wf_zero .idle, hdh, by simp⟩
  | windowWrite o a v strb hb ht ha =>
    obtain ⟨ha4, halt⟩ := busTarget_window_bound ha
    exact ⟨wf_writeWindow hbuf v strb (show a + 3 < 4096 by omega), hpoly, hdh, hbusy⟩
  | statusWrite o v strb ht hk =>
    refine ⟨hbuf, hpoly, hdh, fun hb => ?_⟩
    obtain ⟨hdone, hrest⟩ := hbusy hb
    exact ⟨by simp [hdone], hrest⟩
  | issue w hi => exact ⟨hbuf, hpoly, hdh, fun _ => ⟨rfl, rfl, rfl⟩⟩
  | _ => exact ⟨hbuf, hpoly, hdh, hbusy⟩

/-- Settles O55: BUF is written in canonical form, P is all zeros, nothing is in flight. -/
theorem invariantAtReset : Obligations.InvariantAtReset := by
  have hinv : ∀ (pDh : Nat) (init : List Byte), pDh % 2 = 1 → 2 ^ 2047 ≤ pDh → pDh < 2 ^ 2048 →
      (State.powerOn pDh init).inv = true := fun pDh init hodd hlo hhi =>
    State.inv_powerOn ((admitsPDh_iff pDh).2 ⟨hodd, hlo, hhi⟩) init
  exact ⟨hinv Config.pDh [] (by decide +kernel) (by decide +kernel) (by decide +kernel), hinv⟩

/-- Settles O56, by the events of a step. -/
theorem stepKeepsInvariant : Obligations.StepKeepsInvariant :=
  fun _ _ hs h => (stepEvent_of_step h).inv hs

end Sys2Proof.Machine
end

section
/-! Host accesses to the registers (R103-R109, R207, R210): STATUS as a number, a strobed register write byte by byte, and the
obligations on register reads and writes. -/

namespace Sys2Proof.Machine

/-- CTRL as read (R105). -/
theorem State.ctrlWord_eq (s : State) : s.ctrlWord = BitVec.ofNat 32 (s.degenChk.toNat + 2 * s.irqEn.toNat) := by
  unfold State.ctrlWord
  cases s.degenChk <;> cases s.irqEn <;> decide

/-- STATUS as read: its fields at their places (R106). -/
theorem State.statusWord_eq (s : State) : s.statusWord = BitVec.ofNat 32 (s.busy.toNat + 2 * s.done.toNat
    + 4 * s.cmdOvr.toNat + 8 * s.bufConf.toNat + 2 ^ 8 * s.errcode.code.toNat + 2 ^ 16 * s.poly.pstate.code.toNat
    + 2 ^ 18 * s.poly.pupd.toNat + 2 ^ 24 * s.lastop.toNat) := by
  apply BitVec.eq_of_toNat_eq
  have hbound := s.statusWord.isLt
  unfold State.statusWord at hbound ⊢
  simp only [toNat_append_eq, BitVec.toNat_ofBool, BitVec.toNat_ofNat] at hbound ⊢
  omega

/-- A byte of a word as a number (R202). -/
theorem toNat_wordByte (w : Word) (j : Nat) : (wordByte w j).toNat = w.toNat / 2 ^ (8 * j) % 2 ^ 8 := by
  rw [wordByte, BitVec.extractLsb'_toNat, Nat.shiftRight_eq_div_pow]

/-- A byte of a register after a write (R207). -/
theorem wordByte_merge (old new : Word) (strb : BitVec 4) {j : Nat} (hj : j < 4) :
    wordByte (merge old new strb) j = wordByte (if strb.getLsbD j then new else old) j := by
  apply BitVec.eq_of_getLsbD_eq
  intro i hi
  simp only [wordByte, BitVec.getLsbD_extractLsb', hi, getLsbD_merge _ _ _ (show 8 * j + i < 32 by omega),
    show (8 * j + i) / 8 = j by omega]
  cases strb.getLsbD j <;> rfl

/-- A word is the sum of its bytes (R202). -/
theorem toNat_eq_sum_bytes (w : Word) : w.toNat = ∑ j ∈ Finset.range 4, (wordByte w j).toNat * 2 ^ (8 * j) := by
  have hw := w.isLt
  simp only [Finset.sum_range_succ, Finset.sum_range_zero, toNat_wordByte]
  omega

/-- A register after a write as a number: each byte from the new word if it is strobed, else from the old (R207). -/
theorem merge_eq_sum (old new : Word) (strb : BitVec 4) : merge old new strb = BitVec.ofNat 32
    (∑ j ∈ Finset.range 4, (if strb.getLsbD j then new.toNat else old.toNat) / 2 ^ (8 * j) % 2 ^ 8 * 2 ^ (8 * j)) := by
  have hbyte : ∀ j ∈ Finset.range 4, (wordByte (merge old new strb) j).toNat * 2 ^ (8 * j)
      = (if strb.getLsbD j then new.toNat else old.toNat) / 2 ^ (8 * j) % 2 ^ 8 * 2 ^ (8 * j) := fun j hj => by
    rw [wordByte_merge _ _ _ (Finset.mem_range.1 hj), toNat_wordByte, apply_ite BitVec.toNat]
  rw [← Finset.sum_congr rfl hbyte, ← toNat_eq_sum_bytes, BitVec.ofNat_toNat, BitVec.setWidth_eq]

/-- A write to a register of at most 32 live bits, whose other bits read 0 (R103, R207). -/
theorem merge_setWidth_eq_sum {n : Nat} (hn : n ≤ 32) (x : BitVec n) (new : Word) (strb : BitVec 4) :
    merge (x.setWidth 32) new strb = BitVec.ofNat 32
      (∑ j ∈ Finset.range 4, (if strb.getLsbD j then new.toNat else x.toNat) / 2 ^ (8 * j) % 2 ^ 8 * 2 ^ (8 * j)) := by
  rw [merge_eq_sum, BitVec.toNat_setWidth_of_le hn]

/-- A step that reads a register, which never shows the turns to come (R210). -/
theorem step_read_reg {o : BitVec 13} {r : Reg} (h : busTarget o = .reg r) (s : State) (rest : List Turn) :
    step { s with turns := .read o :: rest } = .next { s with turns := rest, rdata := some (regRead r s) } := by
  have hturns : regRead r { s with turns := rest } = regRead r s := by cases r <;> rfl
  rw [← hturns]
  exact congrArg Host.Outcome.next (hostRead_reg h { s with turns := rest })

/-- Settles O43: every offset names its register, whose word is the number of its fields. -/
theorem registerReads : Obligations.RegisterReads := by
  intro s rest
  have hread : ∀ (o : BitVec 13) (r : Reg) (w : Word), busTarget o = .reg r → regRead r s = w →
      step { s with turns := .read o :: rest } = .next { s with turns := rest, rdata := some w } :=
    fun o r w ho hw => hw ▸ step_read_reg ho s rest
  have hfield : ∀ {n : Nat} (x : BitVec n), x.setWidth 32 = BitVec.ofNat 32 x.toNat := fun x => (BitVec.ofNat_toNat 32 x).symm
  exact ⟨hread _ .id _ rfl rfl, hread _ .ctrl _ rfl s.ctrlWord_eq, hread _ .status _ rfl s.statusWord_eq,
    hread _ .cmd _ rfl rfl, hread _ (.srcAddr 0) _ rfl (hfield _), hread _ (.srcLen 0) _ rfl (hfield _),
    hread _ (.srcAddr 1) _ rfl (hfield _), hread _ (.srcLen 1) _ rfl (hfield _),
    hread _ (.srcAddr 2) _ rfl (hfield _), hread _ (.srcLen 2) _ rfl (hfield _), hread _ .dstAddr _ rfl (hfield _)⟩

/-- Settles O44, by the equation of a STATUS write. -/
theorem statusWriteClears : Obligations.StatusWriteClears := by
  intro s v strb rest
  exact congrArg Host.Outcome.next (writeStatus_eq v strb { s with turns := rest })

/-- Settles O45, by the equation of a CTRL write that is no soft reset. -/
theorem ctrlWrite : Obligations.CtrlWrite := by
  intro s v strb rest h
  exact congrArg Host.Outcome.next (writeCtrl_eq { s with turns := rest } h)

/-- The offsets of the source descriptors (R103). -/
theorem busTarget_descriptors : ∀ k : Fin 3, busTarget (BitVec.ofNat 13 (0x010 + 8 * k.val)) = .reg (.srcAddr k) ∧
    busTarget (BitVec.ofNat 13 (0x014 + 8 * k.val)) = .reg (.srcLen k) := by decide

/-- Settles O46: a descriptor register takes the low bits of the merged word. -/
theorem descriptorWrites : Obligations.DescriptorWrites := by
  intro s v strb rest
  refine ⟨fun k => ⟨congrArg Host.Outcome.next ?_, congrArg Host.Outcome.next ?_⟩, congrArg Host.Outcome.next ?_⟩
  · rw [hostWrite_reg (busTarget_descriptors k).1, regWrite, writeSrcAddr, merge_setWidth_eq_sum (by decide)]
  · rw [hostWrite_reg (busTarget_descriptors k).2, regWrite, writeSrcLen, merge_setWidth_eq_sum (by decide)]
  · rw [hostWrite_reg (r := .dstAddr) rfl, regWrite, writeDst, merge_setWidth_eq_sum (by decide)]

end Sys2Proof.Machine
end

section
/-! What causes each change of the state: one lemma per field over the events of a step, and the obligation that collects them
(R111, R216, R801-R803, R106, R212, R9). -/

namespace Sys2Proof.Machine

/-- What makes P change (R111, R706, R807). -/
theorem StepEvent.poly_changed {s t : State} (h : StepEvent s t) (hne : t.poly ≠ s.poly) :
    PowersOn s ∨ SoftResets s ∨
      (EngineMoves s ∧ t.errcode = .ok ∧ ∃ i : Instr, decode s.lat.word = .ok i ∧ writesPoly i) := by
  cases h with
  | succeeded i eff he hd hc ho hl =>
    exact .inr (.inr ⟨he, rfl, i, hd, by_contra fun hi => hne (poly_operationOf ho hi)⟩)
  | powerOn init ht => exact .inl ⟨init, ht⟩
  | softReset hr => exact .inr (.inl hr)
  | _ => exact absurd rfl hne

/-- What makes BUF change (R216, R1004): a command without a result, or a soft reset of an idle block, writes no byte. -/
theorem StepEvent.buf_changed {s t : State} (h : StepEvent s t) (hne : t.buf ≠ s.buf) :
    PowersOn s ∨ (SoftResets s ∧ s.busy = true) ∨
      (EngineMoves s ∧ t.errcode = .ok ∧ ∃ i : Instr, decode s.lat.word = .ok i ∧ 0 < outlen i) ∨
      (s.busy = false ∧ ∃ (o : BitVec 13) (v : Word) (strb : BitVec 4),
        s.turns.head? = some (.write o v strb) ∧ 0x1000 ≤ o.toNat) := by
  cases h with
  | succeeded i eff he hd hc ho hl =>
    have hpos : 0 < outlen i := by
      rw [← hl]
      exact List.length_pos_iff.2 fun hnil => hne (by rw [State.succeeded_buf, hnil]; rfl)
    exact .inr (.inr (.inl ⟨he, rfl, i, hd, hpos⟩))
  | powerOn init ht => exact .inl ⟨init, ht⟩
  | softReset hr =>
    have hb : s.busy = true := by
      by_contra hb
      exact hne (by rw [State.softReset_buf, State.popTurn_busy, if_neg hb]; rfl)
    exact .inr (.inl ⟨hr, hb⟩)
  | windowWrite o a v strb hb ht ha => exact .inr (.inr (.inr ⟨hb, o, v, strb, ht, le_of_busTarget_window ha⟩))
  | _ => exact absurd rfl hne

/-- What makes BUSY rise (R801). -/
theorem StepEvent.busy_rises {s t : State} (h : StepEvent s t) (hs : s.busy = false) (hv : t.busy = true) :
    IssuesCommand s := by
  cases h with
  | issue w hi => exact hi
  | _ => simp_all

/-- What makes BUSY fall (R802, R1003). -/
theorem StepEvent.busy_falls {s t : State} (h : StepEvent s t) (hs : s.busy = true) (hv : t.busy = false) :
    PowersOn s ∨ SoftResets s ∨ EngineMoves s := by
  cases h with
  | failed e he => exact .inr (.inr he)
  | succeeded i eff he hd hc ho hl => exact .inr (.inr he)
  | powerOn init ht => exact .inl ⟨init, ht⟩
  | softReset hr => exact .inr (.inl hr)
  | _ => simp_all

/-- What makes DONE rise (R802). -/
theorem StepEvent.done_rises {s t : State} (h : StepEvent s t) (hs : s.done = false) (hv : t.done = true) :
    EngineMoves s := by
  cases h with
  | failed e he => exact he
  | succeeded i eff he hd hc ho hl => exact he
  | _ => simp_all

/-- What makes DONE fall (R106, R801, R1003). -/
theorem StepEvent.done_falls {s t : State} (h : StepEvent s t) (hs : s.done = true) (hv : t.done = false) :
    PowersOn s ∨ SoftResets s ∨ IssuesCommand s ∨ ClearsStatusBit s 1 := by
  cases h with
  | powerOn init ht => exact .inl ⟨init, ht⟩
  | softReset hr => exact .inr (.inl hr)
  | issue w hi => exact .inr (.inr (.inl hi))
  | statusWrite o v strb ho hk => exact .inr (.inr (.inr ⟨o, v, strb, ho, hk, by simpa [hs] using hv⟩))
  | _ => simp_all

/-- What makes CMD_OVR rise (R803). -/
theorem StepEvent.cmdOvr_rises {s t : State} (h : StepEvent s t) (hs : s.cmdOvr = false) (hv : t.cmdOvr = true) :
    s.busy = true ∧ HostWrites s 3 fun _ strb => strb = 0b1111#4 := by
  cases h with
  | overrun hb hw => exact ⟨hb, hw⟩
  | _ => simp_all

/-- What makes CMD_OVR fall (R106, R1003). -/
theorem StepEvent.cmdOvr_falls {s t : State} (h : StepEvent s t) (hs : s.cmdOvr = true) (hv : t.cmdOvr = false) :
    PowersOn s ∨ SoftResets s ∨ ClearsStatusBit s 2 := by
  cases h with
  | powerOn init ht => exact .inl ⟨init, ht⟩
  | softReset hr => exact .inr (.inl hr)
  | statusWrite o v strb ho hk => exact .inr (.inr ⟨o, v, strb, ho, hk, by simpa [hs] using hv⟩)
  | _ => simp_all

/-- What makes BUF_CONF rise (R212). -/
theorem StepEvent.bufConf_rises {s t : State} (h : StepEvent s t) (hs : s.bufConf = false) (hv : t.bufConf = true) :
    s.busy = true ∧ AccessesWindow s := by
  cases h with
  | conflictRead hb hw => exact ⟨hb, hw⟩
  | conflictWrite hb hw => exact ⟨hb, hw⟩
  | _ => simp_all

/-- What makes BUF_CONF fall (R106, R1003). -/
theorem StepEvent.bufConf_falls {s t : State} (h : StepEvent s t) (hs : s.bufConf = true) (hv : t.bufConf = false) :
    PowersOn s ∨ SoftResets s ∨ ClearsStatusBit s 3 := by
  cases h with
  | powerOn init ht => exact .inl ⟨init, ht⟩
  | softReset hr => exact .inr (.inl hr)
  | statusWrite o v strb ho hk => exact .inr (.inr ⟨o, v, strb, ho, hk, by simpa [hs] using hv⟩)
  | _ => simp_all

/-- P_DH is wired (R9). -/
theorem StepEvent.pDh_eq {s t : State} (h : StepEvent s t) : t.pDh = s.pDh := by
  cases h <;> rfl

/-- Settles O60, field by field over the events of a step. -/
theorem onlyTheseEventsWriteState : Obligations.OnlyTheseEventsWriteState := by
  intro s t hstep
  have h := stepEvent_of_step hstep
  exact ⟨h.poly_changed, h.buf_changed, h.busy_rises, h.busy_falls, h.done_rises, h.done_falls, h.cmdOvr_rises,
    h.cmdOvr_falls, h.bufConf_rises, h.bufConf_falls, h.pDh_eq⟩

end Sys2Proof.Machine
end

section
/-! Two noninterference statements: what LAT holds while nothing is in flight (R131), and the fields of P that no host access
reads (R121, R130). -/

namespace Sys2Proof.Machine

/-! ### LAT while nothing is in flight. -/

/-- `u` is `t` but for LAT, and LAT too once a command is in flight. -/
def SameButIdleLatch (t u : State) : Prop := ∃ l : Latch, u = { t with lat := l } ∧ (t.busy = true → l = t.lat)

theorem sameButIdleLatch_refl (t : State) : SameButIdleLatch t t := ⟨t.lat, rfl, fun _ => rfl⟩

/-- An idle state and the same with another LAT. -/
theorem sameButIdleLatch_of_idle {t u : State} {l : Latch} (h : u = { t with lat := l }) (hb : t.busy = false) :
    SameButIdleLatch t u :=
  ⟨l, h, fun h => absurd (hb.symm.trans h) Bool.false_ne_true⟩

/-- A host read of an idle block (R204, R210). -/
theorem sameButIdleLatch_hostRead (o : BitVec 13) {s : State} (hb : s.busy = false) (l : Latch) :
    SameButIdleLatch (hostRead o s) (hostRead o { s with lat := l }) := by
  cases ha : busTarget o with
  | reg r =>
    rw [hostRead_reg ha, hostRead_reg ha]
    cases r <;> exact sameButIdleLatch_of_idle rfl hb
  | reserved =>
    rw [hostRead_reserved ha, hostRead_reserved ha]
    exact sameButIdleLatch_of_idle rfl hb
  | window a =>
    rw [hostRead_window_idle ha hb, hostRead_window_idle ha (s := { s with lat := l }) hb]
    exact sameButIdleLatch_of_idle rfl hb

/-- A soft reset of an idle block: no destination byte is left free (R1004). -/
theorem softReset_lat {s : State} (hb : s.busy = false) (l : Latch) : State.softReset { s with lat := l } = s.softReset := by
  simp only [State.softReset, hb]
  rfl

/-- A register write of an idle block: an issue latches afresh (R801). -/
theorem sameButIdleLatch_regWrite (r : Reg) (v : Word) (strb : BitVec 4) {s : State} (hb : s.busy = false) (l : Latch) :
    SameButIdleLatch (regWrite r v strb s) (regWrite r v strb { s with lat := l }) := by
  cases r with
  | ctrl =>
    simp only [regWrite]
    by_cases h : strb.getLsbD 3 = true ∧ v.getLsbD 31 = true
    · rw [writeCtrl_srst _ h, writeCtrl_srst _ h, softReset_lat hb l]
      exact sameButIdleLatch_refl _
    · rw [writeCtrl_eq _ h, writeCtrl_eq _ h]
      exact sameButIdleLatch_of_idle rfl hb
  | cmd =>
    simp only [regWrite]
    by_cases hs : strb = 0b1111#4
    · rw [hs, writeCmd_idle hb, writeCmd_idle (s := { s with lat := l }) hb]
      exact sameButIdleLatch_refl _
    · rw [writeCmd_partial hs, writeCmd_partial hs]
      exact sameButIdleLatch_of_idle rfl hb
  | _ => exact sameButIdleLatch_of_idle rfl hb

/-- A host write to an idle block (R204, R207). -/
theorem sameButIdleLatch_hostWrite (o : BitVec 13) (v : Word) (strb : BitVec 4) {s : State} (hb : s.busy = false) (l : Latch) :
    SameButIdleLatch (hostWrite o v strb s) (hostWrite o v strb { s with lat := l }) := by
  cases ha : busTarget o with
  | reg r =>
    rw [hostWrite_reg ha, hostWrite_reg ha]
    exact sameButIdleLatch_regWrite r v strb hb l
  | reserved =>
    rw [hostWrite_reserved ha, hostWrite_reserved ha]
    exact sameButIdleLatch_of_idle rfl hb
  | window a =>
    rw [hostWrite_window_idle ha v strb hb, hostWrite_window_idle ha v strb (s := { s with lat := l }) hb]
    exact sameButIdleLatch_of_idle rfl hb

/-- Every turn of an idle block (R800). -/
theorem takeTurn_idle_lat (t : Turn) {s : State} (hb : s.busy = false) (l : Latch) :
    ∃ s' u', takeTurn t s = .next s' ∧ takeTurn t { s with lat := l } = .next u' ∧ SameButIdleLatch s' u' := by
  cases t with
  | read o => exact ⟨_, _, rfl, rfl, sameButIdleLatch_hostRead o hb l⟩
  | write o v strb => exact ⟨_, _, rfl, rfl, sameButIdleLatch_hostWrite o v strb hb l⟩
  | engine => exact ⟨_, _, engineTurn_idle hb, engineTurn_idle hb, sameButIdleLatch_of_idle rfl hb⟩
  | powerOn init => exact ⟨_, _, rfl, rfl, sameButIdleLatch_refl _⟩

/-- Settles O59: only the completion reads LAT, and none is enabled. -/
theorem latchUnreadWhileIdle : Obligations.LatchUnreadWhileIdle := by
  intro s l hb
  obtain ⟨t, u, hs, hu, l', rfl, hl⟩ := takeTurn_idle_lat (s.turns.headD .engine) (s := s.popTurn) hb l
  refine ⟨t, l', ?_, ?_, hl⟩
  · rw [step_eq_takeTurn, hs]
  · rw [step_eq_takeTurn]
    exact hu

/-! ### The hidden fields of P. -/

/-- P with the fields no host access can read made zero (R130). -/
def Poly.visible (p : Poly) : Poly := { Poly.zero p.pstate with pupd := p.pupd }

/-- An effect as far as the host can see it. -/
def Effect.visible (e : Effect) : Effect := { e with poly := e.poly.visible }

/-- The inputs with the hidden fields of P made zero. -/
def Inputs.visible (inp : Inputs) : Inputs := { inp with poly := inp.poly.visible }

@[simp] theorem Poly.visible_pstate (p : Poly) : p.visible.pstate = p.pstate := rfl

@[simp] theorem Poly.visible_pupd (p : Poly) : p.visible.pupd = p.pupd := rfl

/-- The visible part of P is PSTATE and PUPD. -/
theorem Poly.visible_congr {p q : Poly} (hs : p.pstate = q.pstate) (hu : p.pupd = q.pupd) : p.visible = q.visible := by
  rw [Poly.visible, Poly.visible, hs, hu]

@[simp] theorem State.visible_visible (s : State) : s.visible.visible = s.visible := rfl

/-- No operation but P_TAG's shows the hidden fields of P, neither in its result nor in what it leaves visible of P. -/
theorem operationOf_visible (m : Nat) {i : Instr} (hi : i ≠ .pTag) (inp : Inputs) :
    (operationOf m i inp.visible).map Effect.visible = (operationOf m i inp).map Effect.visible := by
  cases i with
  | pTag => exact absurd rfl hi
  | pUpdate pad =>
    have hp : (inp.poly.visible.update (paddedSegment pad inp.src[0])).visible
        = (inp.poly.update (paddedSegment pad inp.src[0])).visible := Poly.visible_congr (by simp) (by simp)
    exact congrArg (fun p => Except.ok (Effect.mk [] p)) hp
  | xLadder =>
    simp only [operationOf, opXLadder, apply_ite (Except.map Effect.visible)]
    rfl
  | xShared =>
    simp only [operationOf, opXShared, apply_ite (Except.map Effect.visible)]
    rfl
  | dhShared =>
    simp only [operationOf, opDhShared, apply_ite (Except.map Effect.visible)]
    rfl
  | _ => rfl

/-- Both outcomes are next states on which the host sees the same. -/
def SameToHost (o o' : Host.Outcome State Fault Refusal) : Prop :=
  ∃ s t : State, o = .next s ∧ o' = .next t ∧ s.visible = t.visible

theorem SameToHost.symm {o o' : Host.Outcome State Fault Refusal} (h : SameToHost o o') : SameToHost o' o := by
  obtain ⟨s, t, hs, ht, he⟩ := h
  exact ⟨t, s, ht, hs, he.symm⟩

theorem SameToHost.trans {o o' o'' : Host.Outcome State Fault Refusal} (h : SameToHost o o') (h' : SameToHost o' o'') :
    SameToHost o o'' := by
  obtain ⟨s, t, hs, ht, he⟩ := h
  obtain ⟨t', u, ht', hu, he'⟩ := h'
  cases ht.symm.trans ht'
  exact ⟨s, u, hs, hu, he.trans he'⟩

/-- The completion of a command other than P_TAG (R802). The checks read only PSTATE and PUPD of P, so they agree by
definition, and the inputs of `s.visible` are those of `s` with the hidden fields made zero. -/
theorem sameToHost_exec {i : Instr} (hi : i ≠ .pTag) (s : State) : SameToHost (exec i s) (exec i s.visible) := by
  rw [exec_eq_runCommand, exec_eq_runCommand]
  by_cases hc : check i s.lat s.poly = .ok
  · have hop := operationOf_visible s.pDh hi (inputsOf i s)
    cases ho : operationOf s.pDh i (inputsOf i s) with
    | error e =>
      cases hv : operationOf s.pDh i (inputsOf i s).visible with
      | error e' =>
        rw [ho, hv] at hop
        cases hop
        exact ⟨_, _, runCommand_of_abort hc ho, runCommand_of_abort (s := s.visible) hc hv, rfl⟩
      | ok eff' =>
        rw [ho, hv] at hop
        cases hop
    | ok eff =>
      cases hv : operationOf s.pDh i (inputsOf i s).visible with
      | error e' =>
        rw [ho, hv] at hop
        cases hop
      | ok eff' =>
        rw [ho, hv] at hop
        obtain ⟨hout, hpoly⟩ : eff'.out = eff.out ∧ eff'.poly.visible = eff.poly.visible := by
          simpa [Except.map, Effect.visible] using hop
        have hl := length_out_operationOf _ i s eff hc ho
        refine ⟨_, _, runCommand_of_success hc ho hl,
          runCommand_of_success (s := s.visible) hc hv (hout ▸ hl), ?_⟩
        show s.succeeded eff.out eff.poly.visible = s.succeeded eff'.out eff'.poly.visible
        rw [hout, hpoly]
  · exact ⟨_, _, runCommand_of_check_ne hc, runCommand_of_check_ne (s := s.visible) hc, rfl⟩

/-- The engine's turn, unless it completes a P_TAG (R802). -/
theorem sameToHost_engineTurn {s : State} (h : ¬ (s.busy = true ∧ decode s.lat.word = .ok .pTag)) :
    SameToHost (engineTurn s) (engineTurn s.visible) := by
  cases hb : s.busy with
  | false => exact ⟨_, _, engineTurn_idle hb, engineTurn_idle (s := s.visible) hb, rfl⟩
  | true =>
    cases hd : decode s.lat.word with
    | error e => exact ⟨_, _, engineTurn_illegal hb hd, engineTurn_illegal (s := s.visible) hb hd, rfl⟩
    | ok i =>
      rw [engineTurn_legal hb hd, engineTurn_legal (s := s.visible) hb hd]
      exact sameToHost_exec (fun hi => h ⟨hb, hi ▸ hd⟩) s

/-- A host read neither shows nor changes the hidden fields (R130). -/
theorem visible_hostRead (o : BitVec 13) (s : State) : (hostRead o s).visible = hostRead o s.visible := by
  cases ha : busTarget o with
  | reg r =>
    rw [hostRead_reg ha, hostRead_reg ha]
    cases r <;> rfl
  | reserved =>
    rw [hostRead_reserved ha, hostRead_reserved ha]
    rfl
  | window a =>
    cases hb : s.busy with
    | true =>
      rw [hostRead_window_busy ha hb, hostRead_window_busy ha (s := s.visible) hb]
      rfl
    | false =>
      rw [hostRead_window_idle ha hb, hostRead_window_idle ha (s := s.visible) hb]
      rfl

/-- A register write does not depend on the hidden fields (R130). -/
theorem visible_regWrite (r : Reg) (v : Word) (strb : BitVec 4) (s : State) :
    (regWrite r v strb s).visible = regWrite r v strb s.visible := by
  cases r with
  | ctrl =>
    simp only [regWrite]
    by_cases h : strb.getLsbD 3 = true ∧ v.getLsbD 31 = true
    · rw [writeCtrl_srst _ h, writeCtrl_srst _ h]
      rfl
    · rw [writeCtrl_eq _ h, writeCtrl_eq _ h]
      rfl
  | cmd =>
    simp only [regWrite]
    by_cases hs : strb = 0b1111#4
    · cases hb : s.busy with
      | true =>
        rw [hs, writeCmd_busy hb, writeCmd_busy (s := s.visible) hb]
        rfl
      | false =>
        rw [hs, writeCmd_idle hb, writeCmd_idle (s := s.visible) hb]
        rfl
    · rw [writeCmd_partial hs, writeCmd_partial hs]
  | _ => rfl

/-- A host write does not depend on the hidden fields (R130). -/
theorem visible_hostWrite (o : BitVec 13) (v : Word) (strb : BitVec 4) (s : State) :
    (hostWrite o v strb s).visible = hostWrite o v strb s.visible := by
  cases ha : busTarget o with
  | reg r =>
    rw [hostWrite_reg ha, hostWrite_reg ha]
    exact visible_regWrite r v strb s
  | reserved =>
    rw [hostWrite_reserved ha, hostWrite_reserved ha]
  | window a =>
    cases hb : s.busy with
    | true =>
      rw [hostWrite_window_busy ha v strb hb, hostWrite_window_busy ha v strb (s := s.visible) hb]
      rfl
    | false =>
      rw [hostWrite_window_idle ha v strb hb, hostWrite_window_idle ha v strb (s := s.visible) hb]
      rfl

/-- A step with the hidden fields made zero looks the same to the host, unless it completes a P_TAG. -/
theorem sameToHost_step {s : State} (h : ¬ (EngineMoves s ∧ decode s.lat.word = .ok .pTag)) :
    SameToHost (step s) (step s.visible) := by
  have hturn : step s.visible = takeTurn (s.turns.headD .engine) s.popTurn.visible := step_eq_takeTurn s.visible
  rw [step_eq_takeTurn, hturn]
  cases hm : s.turns.headD .engine with
  | engine =>
    exact sameToHost_engineTurn (s := s.popTurn) fun ⟨hb, hd⟩ => h ⟨engineMoves_of_headD hb hm, hd⟩
  | read o => exact ⟨_, _, rfl, rfl, by rw [← visible_hostRead, State.visible_visible]⟩
  | write o v strb => exact ⟨_, _, rfl, rfl, by rw [← visible_hostWrite, State.visible_visible]⟩
  | powerOn init => exact ⟨_, _, rfl, rfl, rfl⟩

/-- Settles O58: both states step like the one with the hidden fields made zero. -/
theorem hiddenPolyStateUnobservable : Obligations.HiddenPolyStateUnobservable := by
  intro s t hst hs
  have hbusy : t.busy = s.busy := (congrArg State.busy hst).symm
  have hlat : t.lat = s.lat := (congrArg State.lat hst).symm
  have hturns : t.turns = s.turns := (congrArg State.turns hst).symm
  have ht : ¬ (EngineMoves t ∧ decode t.lat.word = .ok .pTag) := by
    rwa [EngineMoves, hbusy, hlat, hturns]
  have hzero : SameToHost (step s) (step t.visible) := hst ▸ sameToHost_step hs
  exact hzero.trans (sameToHost_step ht).symm

end Sys2Proof.Machine
end

section
/-! What one command leaves unchanged (R216, R111, R802): the completions a command can end in, the registers, BUF outside the
result, the fields of P that P_UPDATE keeps, and the obligations on frames. -/

namespace Sys2Proof.Machine

/-- A completion of a legal command is an error or writes the result of its operation (R802, R904, R905). -/
theorem exec_inversion {i : Instr} {s t : State} (h : exec i s = .next t) :
    (∃ e : ErrCode, t = s.failed e) ∨
    ∃ eff : Effect, operationOf s.pDh i (inputsOf i s) = .ok eff ∧ eff.out.length = outlen i ∧
      t = s.succeeded eff.out eff.poly := by
  rcases exec_cases i s with ⟨-, hx⟩ | ⟨e, -, -, hx⟩ | ⟨eff, -, ho, hl, hx⟩ <;> cases hx.symm.trans h
  · exact .inl ⟨_, rfl⟩
  · exact .inl ⟨e, rfl⟩
  · exact .inr ⟨eff, ho, hl, rfl⟩

/-- A completion writes no register but BUSY, DONE, ERRCODE and LASTOP (R802). -/
theorem sameRegisters_exec {i : Instr} {s t : State} (h : exec i s = .next t) : SameRegisters s t := by
  rcases exec_inversion h with ⟨e, rfl⟩ | ⟨eff, -, -, rfl⟩
  · exact ⟨rfl, rfl, rfl, rfl, rfl, rfl, rfl, rfl, rfl, rfl, rfl, rfl⟩
  · exact ⟨rfl, rfl, rfl, rfl, rfl, rfl, rfl, rfl, rfl, rfl, rfl, rfl⟩

/-- A completion writes no BUF byte outside the result (R216, R407). -/
theorem read_buf_exec_outside {i : Instr} {s t : State} (hs : s.buf.wf = true) (h : exec i s = .next t) {a : Nat}
    (ha : a < s.lat.dst.toNat ∨ s.lat.dst.toNat + outlen i ≤ a) : t.buf.read a = s.buf.read a := by
  rcases exec_inversion h with ⟨e, rfl⟩ | ⟨eff, -, hl, rfl⟩
  · rfl
  · obtain ⟨hsorted, -⟩ := (Memory.wf_iff s.buf).1 hs
    exact Memory.read_writeBytes_outside hsorted (Nat.zero_le _) (hl ▸ ha)

/-- A command without a result leaves BUF as it is, canonical or not (R307). -/
theorem buf_exec_of_outlen_zero {i : Instr} {s t : State} (hi : outlen i = 0) (h : exec i s = .next t) : t.buf = s.buf := by
  rcases exec_inversion h with ⟨e, rfl⟩ | ⟨eff, -, hl, rfl⟩
  · rfl
  · rw [State.succeeded_buf, List.length_eq_zero_iff.1 (hl.trans hi), Memory.writeBytes_nil]

/-- A command that does not write P leaves it as it is (R111). -/
theorem poly_exec_of_not_writesPoly {i : Instr} {s t : State} (hi : ¬ writesPoly i) (h : exec i s = .next t) :
    t.poly = s.poly := by
  rcases exec_inversion h with ⟨e, rfl⟩ | ⟨eff, ho, -, rfl⟩
  · rfl
  · exact poly_operationOf ho hi

/-- An error leaves P as it is (R904). -/
theorem poly_exec_of_error {i : Instr} {s t : State} (h : exec i s = .next t) (he : t.errcode ≠ .ok) : t.poly = s.poly := by
  rcases exec_inversion h with ⟨e, rfl⟩ | ⟨eff, -, -, rfl⟩
  · rfl
  · exact absurd (State.succeeded_errcode ..) he

/-- The one command that both writes P and stores a result (R305, R705). -/
theorem eq_pTag_of_writesPoly {i : Instr} (hi : writesPoly i) (ho : 0 < outlen i) : i = .pTag := by
  have hlist : ∀ j ∈ [Instr.pInit, .pUpdate false, .pUpdate true, .pBlock, .pTag], 0 < outlen j → j = .pTag := by decide
  exact hlist i hi ho

/-- Settles O31: every command of the list has a result, and only P_TAG among those writes P. -/
theorem storingCommandsFrame : Obligations.StoringCommandsFrame := by
  intro i s t hi hs h
  have hpos : ∀ j ∈ [Instr.xClamp, .xPadd, .xPdbl, .xInv, .xAffine, .xLadder, .xPub, .xShared, .dhModexp, .dhPub, .dhShared,
      .pTag], 0 < outlen j := by decide
  refine ⟨sameRegisters_exec h, ?_, fun a ha => read_buf_exec_outside hs h ha⟩
  rintro (hne | he)
  · exact poly_exec_of_not_writesPoly (fun hw => hne (eq_pTag_of_writesPoly hw (hpos i hi))) h
  · exact poly_exec_of_error h he

/-- What no byte of the stream changes in P, no segment changes (R703). -/
theorem Poly.foldl_feed_of_feed {α : Type} {f : Poly → α} (hf : ∀ p x, f (p.feed x) = f p) (p : Poly) (seg : List Byte) :
    f (seg.foldl Poly.feed p) = f p := by
  induction seg generalizing p with
  | nil => rfl
  | cons x xs ih => rw [List.foldl_cons, ih, hf]

@[simp] theorem Poly.feed_pr (p : Poly) (x : Byte) : (p.feed x).pr = p.pr := by
  unfold Poly.feed
  split <;> rfl

@[simp] theorem Poly.feed_ps (p : Poly) (x : Byte) : (p.feed x).ps = p.ps := by
  unfold Poly.feed
  split <;> rfl

@[simp] theorem Poly.update_pr (p : Poly) (seg : List Byte) : (p.update seg).pr = p.pr :=
  Poly.foldl_feed_of_feed Poly.feed_pr _ seg

@[simp] theorem Poly.update_ps (p : Poly) (seg : List Byte) : (p.update seg).ps = p.ps :=
  Poly.foldl_feed_of_feed Poly.feed_ps _ seg

/-- P_UPDATE keeps PSTATE and the key (R703). -/
theorem poly_exec_pUpdate {pad : Bool} {s t : State} (h : exec (.pUpdate pad) s = .next t) :
    t.poly.pstate = s.poly.pstate ∧ t.poly.pr = s.poly.pr ∧ t.poly.ps = s.poly.ps := by
  rcases exec_inversion h with ⟨e, rfl⟩ | ⟨eff, ho, -, rfl⟩
  · exact ⟨rfl, rfl, rfl⟩
  · cases ho
    exact ⟨Poly.update_pstate .., Poly.update_pr .., Poly.update_ps ..⟩

/-- P_BLOCK writes PACC only (R704). -/
theorem poly_exec_pBlock {s t : State} (h : exec .pBlock s = .next t) : t.poly = { s.poly with pacc := t.poly.pacc } := by
  rcases exec_inversion h with ⟨e, rfl⟩ | ⟨eff, ho, -, rfl⟩
  · rfl
  · cases ho
    rfl

/-- Settles O32: no command of the list has a result, so BUF stays whole. -/
theorem nonStoringCommandsFrame : Obligations.NonStoringCommandsFrame := by
  intro i s t hi h
  have hzero : ∀ j ∈ [Instr.nop, .pInit, .pUpdate false, .pUpdate true, .pBlock], outlen j = 0 := by decide
  refine ⟨sameRegisters_exec h, fun a => by rw [buf_exec_of_outlen_zero (hzero i hi) h], ?_, ?_, ?_⟩
  · rintro rfl
    exact poly_exec_of_not_writesPoly (by simp [writesPoly]) h
  · rintro pad rfl
    exact poly_exec_pUpdate h
  · rintro rfl
    exact poly_exec_pBlock h

end Sys2Proof.Machine
end

section
/-! Host accesses by offset (R203, R204, R209, R212): what an offset names, what a window write leaves in BUF, and the obligations
on reserved offsets and the BUF window. -/

namespace Sys2Proof.Machine

/-! ### What an offset names. -/

/-- Offsets of the same word name the same target (R203). -/
theorem busTarget_congr {o o' : BitVec 13} (h : o.toNat / 4 = o'.toNat / 4) : busTarget o = busTarget o' := by
  rw [busTarget, busTarget, h]

/-- Offset bits 1:0 do not change the word (R203). -/
theorem toNat_and_not_three_div (o : BitVec 13) : (o &&& ~~~3#13).toNat / 4 = o.toNat / 4 := by
  have hword : o.toNat >>> 2 < 2 ^ 11 := by
    have hlt := o.isLt
    rw [Nat.shiftRight_eq_div_pow]
    omega
  calc (o &&& ~~~3#13).toNat / 4
    _ = (o.toNat &&& 8188) >>> 2 := by rw [BitVec.toNat_and, Nat.shiftRight_eq_div_pow]; rfl
    _ = o.toNat >>> 2 &&& (2 ^ 11 - 1) := Nat.shiftRight_and_distrib
    _ = o.toNat >>> 2 := by rw [Nat.and_two_pow_sub_one_eq_mod, Nat.mod_eq_of_lt hword]
    _ = o.toNat / 4 := Nat.shiftRight_eq_div_pow _ 2

theorem busTarget_and_not_three (o : BitVec 13) : busTarget (o &&& ~~~3#13) = busTarget o :=
  busTarget_congr (toNat_and_not_three_div o)

/-- The reserved offsets (R209). -/
theorem busTarget_reserved {o : BitVec 13} (hlo : 0x2C ≤ o.toNat) (hhi : o.toNat ≤ 0xFFF) : busTarget o = .reserved := by
  unfold busTarget
  simp only
  split
  · omega
  · split
    case h_12 => rfl
    all_goals omega

/-- The BUF address a word offset of the window names (R204). -/
theorem busTarget_window_word {o : BitVec 13} (h : 0x1000 ≤ o.toNat) (h4 : o.toNat % 4 = 0) :
    busTarget o = .window (o.toNat - 0x1000) := by
  rw [busTarget_window h, Nat.div_mul_cancel (Nat.dvd_of_mod_eq_zero h4)]

/-! ### Steps of the host. -/

theorem step_read (o : BitVec 13) (s : State) (rest : List Turn) :
    step { s with turns := .read o :: rest } = .next (hostRead o { s with turns := rest }) := rfl

theorem step_write (o : BitVec 13) (v : Word) (strb : BitVec 4) (s : State) (rest : List Turn) :
    step { s with turns := .write o v strb :: rest } = .next (hostWrite o v strb { s with turns := rest }) := rfl

theorem hostRead_congr {o o' : BitVec 13} (h : busTarget o = busTarget o') (s : State) : hostRead o s = hostRead o' s := by
  rw [hostRead, hostRead, h]

theorem hostWrite_congr {o o' : BitVec 13} (h : busTarget o = busTarget o') (v : Word) (strb : BitVec 4) (s : State) :
    hostWrite o v strb s = hostWrite o' v strb s := by
  rw [hostWrite, hostWrite, h]

/-- Settles O39: an access depends on its offset only through the target, which ignores bits 1:0. -/
theorem offsetLowBitsIgnored : Obligations.OffsetLowBitsIgnored := by
  intro s o v strb rest
  have htarget := (busTarget_and_not_three o).symm
  refine ⟨?_, ?_, ⟨_, step_read o s rest⟩, ⟨_, step_write o v strb s rest⟩⟩
  · rw [step_read, step_read, hostRead_congr htarget]
  · rw [step_write, step_write, hostWrite_congr htarget]

/-- Settles O40, by the target of a reserved offset and of ID. -/
theorem reservedOffsetsAndId : Obligations.ReservedOffsetsAndId := by
  intro s v strb rest
  refine ⟨fun o hlo hhi => ?_, ?_⟩
  · have hreserved := busTarget_reserved hlo hhi
    exact ⟨by rw [step_read, hostRead_reserved hreserved], by rw [step_write, hostWrite_reserved hreserved]⟩
  · rw [step_write, hostWrite_reg (r := .id) rfl, regWrite]

/-! ### The BUF window. -/

/-- BUF after a window write: each byte from its lane of the data if that is strobed, else as it was (R204). -/
theorem read_writeWindow {m : Memory} (h : m.wf = true) {a : Nat} (ha : a + 3 < Config.bufSize) (v : Word) (strb : BitVec 4)
    (b : Nat) : (writeWindow m a v strb).read b =
      if a ≤ b ∧ b < a + 4 ∧ strb.getLsbD (b - a) = true then wordByte v (b - a) else m.read b := by
  have h0 := wf_writeLane h v strb (show a + 0 < Config.bufSize by omega)
  have h1 := wf_writeLane h0 v strb (show a + 1 < Config.bufSize by omega)
  have h2 := wf_writeLane h1 v strb (show a + 2 < Config.bufSize by omega)
  simp only [writeWindow, read_writeLane h2, read_writeLane h1, read_writeLane h0, read_writeLane h]
  by_cases hin : a ≤ b ∧ b < a + 4
  · obtain ⟨j, rfl⟩ := Nat.exists_eq_add_of_le hin.1
    have hj : j < 4 := by omega
    interval_cases j <;> simp
  · have hout : ∀ j, j < 4 → b ≠ a + j := by omega
    rw [if_neg (fun hl => hout 3 (by decide) hl.1), if_neg (fun hl => hout 2 (by decide) hl.1),
      if_neg (fun hl => hout 1 (by decide) hl.1), if_neg (fun hl => hout 0 (by decide) hl.1),
      if_neg (fun hl => hin ⟨hl.1, hl.2.1⟩)]

/-- Settles O41, by the target of a word offset and the window's read and write. -/
theorem bufWindowIdle : Obligations.BufWindowIdle := by
  intro s o v strb rest hb hbuf hlo h4
  have htarget := busTarget_window_word hlo h4
  have hfit : o.toNat - 0x1000 + 3 < Config.bufSize := by
    have hlt := o.isLt
    show o.toNat - 0x1000 + 3 < 4096
    omega
  refine ⟨?_, writeWindow s.buf (o.toNat - 0x1000) v strb, ?_, read_writeWindow hbuf hfit v strb⟩
  · rw [step_read, hostRead_window_idle htarget (s := { s with turns := rest }) hb, ← toNat_windowWord, BitVec.ofNat_toNat,
      BitVec.setWidth_eq]
  · rw [step_write, hostWrite_window_idle htarget v strb (s := { s with turns := rest }) hb]

/-- Settles O42, by the window accesses while a command is in flight. -/
theorem bufWindowBusy : Obligations.BufWindowBusy := by
  intro s o v strb rest hb hlo
  have htarget := busTarget_window hlo
  refine ⟨?_, ?_⟩
  · rw [step_read, hostRead_window_busy htarget (s := { s with turns := rest }) hb]
  · rw [step_write, hostWrite_window_busy htarget v strb (s := { s with turns := rest }) hb]

end Sys2Proof.Machine
end

section
/-! Command words (R300-R309): fields and word are inverse, the table of R304 read both ways, what the decoder accepts, and the
obligations on decoding and encoding. -/

namespace Sys2Proof

/-! ### Fields and word (R300). -/

@[simp] theorem fieldsOf_wordOf (f : Fields) : fieldsOf (wordOf f) = f := by
  obtain ⟨opc, pad, rsvd⟩ := f
  simp only [fieldsOf, wordOf, Fields.mk.injEq]
  refine ⟨BitVec.extractLsb'_append_eq_right, ?_, ?_⟩
  · rw [BitVec.getLsbD_append, BitVec.getLsbD_append]
    exact BitVec.getLsbD_ofBool ..
  · apply BitVec.eq_of_getLsbD_eq
    intro i hi
    rw [BitVec.getLsbD_extractLsb', BitVec.append_assoc, BitVec.getLsbD_cast, BitVec.getLsbD_append, BitVec.getLsbD_append]
    simp [hi]

@[simp] theorem wordOf_fieldsOf (w : Word) : wordOf (fieldsOf w) = w := by
  apply BitVec.eq_of_toNat_eq
  have hw := w.isLt
  unfold wordOf fieldsOf
  simp only [Machine.toNat_append_eq, BitVec.extractLsb'_toNat, BitVec.toNat_ofBool, BitVec.getLsbD, Nat.toNat_testBit,
    Nat.shiftRight_eq_div_pow]
  omega

/-! ### The table of R304. -/

/-- Every command stands in the table at its own code. -/
@[simp] theorem commandOfOpcode_opcodeOf (i : Instr) : commandOfOpcode (opcodeOf i) (padOf i) = some i := by
  cases i <;> rfl

/-- A row of the table: the code is the command's, and the pad flag too where the command has one (R302). -/
theorem opcodeOf_padOf_of_commandOfOpcode {opc : BitVec 8} {pad : Bool} {i : Instr} (h : commandOfOpcode opc pad = some i) :
    opcodeOf i = opc ∧ padOf i = (opc == 0x31#8 && pad) := by
  have hopc : BitVec.ofNat 8 opc.toNat = opc := BitVec.ofNat_toNat 8 opc
  unfold commandOfOpcode at h
  split at h <;> cases h
  all_goals
    rename_i hcode
    rw [hcode] at hopc
    subst hopc
    exact ⟨rfl, rfl⟩

/-- The codes of the table are the assigned ones (R304, R308). -/
theorem isSome_commandOfOpcode (f : Fields) : (commandOfOpcode f.opc f.pad).isSome = f.assigned := by
  have hassigned : f.assigned = true ↔ f.opc.toNat = 0 ∨ (0x10 ≤ f.opc.toNat ∧ f.opc.toNat ≤ 0x17) ∨
      (0x20 ≤ f.opc.toNat ∧ f.opc.toNat ≤ 0x22) ∨ (0x30 ≤ f.opc.toNat ∧ f.opc.toNat ≤ 0x33) := by
    simp [Fields.assigned, BitVec.le_def, BitVec.toNat_eq, or_assoc]
  rw [Bool.eq_iff_iff, hassigned]
  unfold commandOfOpcode
  split
  case h_17 =>
    simp only [imp_false] at *
    exact iff_of_false Bool.false_ne_true (by omega)
  all_goals
    rename_i hcode
    simp [hcode]

/-! ### The decoder (R309). -/

/-- What the decoder accepts, and as which command. -/
theorem decode_eq_ok_iff {w : Word} {i : Instr} : decode w = .ok i ↔
    (fieldsOf w).rsvd = 0#23 ∧ commandOfOpcode (fieldsOf w).opc (fieldsOf w).pad = some i ∧ (fieldsOf w).padOk = true := by
  have hpad : (fieldsOf w).padOk = true ↔ ¬ ((fieldsOf w).pad = true ∧ (fieldsOf w).opc ≠ 0x31#8) := by
    cases hp : (fieldsOf w).pad <;> simp [Fields.padOk, hp]
  rw [hpad]
  unfold decode
  by_cases hrsvd : (fieldsOf w).rsvd = 0#23
  · cases hrow : commandOfOpcode (fieldsOf w).opc (fieldsOf w).pad with
    | none => simp [hrsvd, hrow]
    | some j =>
      simp only [hrsvd, hrow, ne_eq, not_true_eq_false, if_false, true_and]
      split <;> rename_i hp <;> simp [hp]
  · simp [hrsvd]

/-- Settles O2: the word's fields are the command's, whose row of the table is the command. -/
theorem decodeEncodeRoundTrip : Obligations.DecodeEncodeRoundTrip := by
  intro i _
  have hpad : ({ opc := opcodeOf i, pad := padOf i, rsvd := 0#23 } : Fields).padOk = true := by
    cases i with
    | pUpdate pad => exact Bool.or_true _
    | _ => rfl
  rw [decode_eq_ok_iff, encode, fieldsOf_wordOf]
  exact ⟨rfl, commandOfOpcode_opcodeOf i, hpad⟩

/-- Settles O3: the command's row gives back OPC and, since PAD is legal, PAD; RSVD is 0. -/
theorem encodeDecodeRoundTrip : Obligations.EncodeDecodeRoundTrip := by
  intro w i h
  obtain ⟨hrsvd, hrow, hpad⟩ := decode_eq_ok_iff.1 h
  obtain ⟨hopc, hpadOf⟩ := opcodeOf_padOf_of_commandOfOpcode hrow
  have hpadEq : padOf i = (fieldsOf w).pad := by
    rw [hpadOf]
    cases hp : (fieldsOf w).pad with
    | false => exact Bool.and_false _
    | true => simpa [Fields.padOk, hp] using hpad
  rw [encode, hopc, hpadEq, ← hrsvd]
  exact wordOf_fieldsOf w

/-- Settles O4: the table's rows are the assigned codes, and the decoder's other tests are those of R308. -/
theorem decodeRejectsExactlyIllegal : Obligations.DecodeRejectsExactlyIllegal := by
  intro w
  have hassigned : (fieldsOf w).assigned = true ↔ ∃ i, commandOfOpcode (fieldsOf w).opc (fieldsOf w).pad = some i := by
    rw [← isSome_commandOfOpcode, Option.isSome_iff_exists]
  simp only [decode_eq_ok_iff, Fields.wf, Fields.rsvdOk, Bool.and_eq_true, beq_iff_eq, hassigned]
  constructor
  · rintro ⟨i, hrsvd, hrow, hpad⟩
    exact ⟨⟨⟨i, hrow⟩, hrsvd⟩, hpad⟩
  · rintro ⟨⟨⟨i, hrow⟩, hrsvd⟩, hpad⟩
    exact ⟨i, hrsvd, hrow, hpad⟩

/-- Settles O1, by running the decoder on each word. -/
theorem decodeOfWrittenWords : Obligations.DecodeOfWrittenWords := by
  unfold Obligations.DecodeOfWrittenWords
  decide

end Sys2Proof
end

section
/-! A run that plays a list of host turns to its end, the writes of a command line on an idle block (R311, R313), and the
obligation that they issue the command. -/

namespace Sys2Proof.Machine

open HostProgram

/-! ### A list of turns played to its end. -/

/-- The run from `s` that plays exactly the turns `ts`. -/
def State.play (s : State) (ts : List Turn) : Host.Outcome State Fault Refusal :=
  Sys2Proof.core.run ts.length { s with turns := ts }

@[simp] theorem State.play_nil (s : State) : s.play [] = .next { s with turns := [] } := rfl

/-- A host write neither reads nor changes the turns to come. -/
theorem hostWrite_withTurns (o : BitVec 13) (v : Word) (strb : BitVec 4) (s : State) (ts : List Turn) :
    hostWrite o v strb { s with turns := ts } = { hostWrite o v strb s with turns := ts } := by
  unfold hostWrite
  cases busTarget o with
  | reserved => rfl
  | window a => simp only; split <;> rfl
  | reg r =>
    cases r with
    | ctrl => simp only [regWrite, writeCtrl]; split <;> rfl
    | cmd =>
      simp only [regWrite, writeCmd]
      split
      · rfl
      · split <;> rfl
    | _ => rfl

/-- A list that begins with a host write. -/
theorem State.play_write (s : State) (o : BitVec 13) (v : Word) (strb : BitVec 4) (ts : List Turn) :
    s.play (.write o v strb :: ts) = (hostWrite o v strb s).play ts := by
  have hstep := step_write o v strb s ts
  rw [hostWrite_withTurns] at hstep
  exact run_succ ts.length _ _ hstep

/-! ### The writes of a command line (R313). -/

/-- The descriptor pair that holds a source operand (R108). -/
def descriptorOf (o : SourceOperand) : Descriptor := { addr := BitVec.ofNat 12 o.addr, len := BitVec.ofNat 13 o.len }

/-- The descriptors once the operands `os` are written from source `k` on. -/
def namedSources (k : Nat) (os : List SourceOperand) (v : Vector Descriptor 3) : Vector Descriptor 3 :=
  Vector.ofFn fun j => if k ≤ j.val then (os[j.val - k]?.map descriptorOf).getD v[j] else v[j]

@[simp] theorem namedSources_nil (k : Nat) (v : Vector Descriptor 3) : namedSources k [] v = v := by
  ext j hj : 1
  simp [namedSources]

/-- The first operand goes to source `k`, the others from `k + 1` on. -/
theorem namedSources_cons (k : Fin 3) (o : SourceOperand) (os : List SourceOperand) (v : Vector Descriptor 3) :
    namedSources k (o :: os) v = namedSources (k + 1) os (v.set k (descriptorOf o)) := by
  ext j hj : 1
  simp only [namedSources, Vector.getElem_ofFn, Fin.getElem_fin]
  rcases Nat.lt_trichotomy j k with hlt | heq | hgt
  · have h1 : ¬ k.val ≤ j := by omega
    have h2 : ¬ k.val + 1 ≤ j := by omega
    have h3 : k.val ≠ j := by omega
    simp [h1, h2, h3]
  · simp [heq]
  · have h1 : k.val ≤ j := by omega
    have h2 : k.val + 1 ≤ j := by omega
    have h3 : k.val ≠ j := by omega
    have h4 : j - k.val = (j - (k.val + 1)) + 1 := by omega
    simp [h1, h2, h3, h4]

/-- The two writes of one source operand. -/
theorem State.play_writeSource (s : State) (k : Fin 3) (o : SourceOperand) (ts : List Turn) :
    s.play (wr (0x010 + 8 * k) (BitVec.ofNat 32 o.addr) ++ wr (0x014 + 8 * k) (BitVec.ofNat 32 o.len) ++ ts) =
      ({ s with src := s.src.set k (descriptorOf o) } : State).play ts := by
  obtain ⟨haddr, hlen⟩ := busTarget_descriptors k
  simp only [wr, List.cons_append, List.nil_append, State.play_write]
  rw [hostWrite_reg haddr, hostWrite_reg hlen]
  simp only [regWrite, writeSrcAddr, writeSrcLen, merge_full]
  congr 2
  simp [descriptorOf, BitVec.setWidth_ofNat_of_le]

/-- The source writes of a command line, before whatever turns follow. -/
theorem State.play_writeSources (s : State) (k : Nat) (os : List SourceOperand) (ts : List Turn) (hk : k + os.length ≤ 3) :
    s.play (writeSources k os ++ ts) = ({ s with src := namedSources k os s.src } : State).play ts := by
  induction os generalizing k s with
  | nil => simp [writeSources]
  | cons o os ih =>
    rw [List.length_cons] at hk
    have hk3 : k < 3 := by omega
    rw [writeSources, List.append_assoc, State.play_writeSource s ⟨k, hk3⟩, ih _ _ (by omega),
      namedSources_cons ⟨k, hk3⟩]

/-- The write of DST_ADDR. -/
theorem State.play_writeDst (s : State) (d : Nat) (ts : List Turn) :
    s.play (wr 0x028 (BitVec.ofNat 32 d) ++ ts) = ({ s with dst := BitVec.ofNat 12 d } : State).play ts := by
  rw [wr, List.singleton_append, State.play_write, hostWrite_reg (r := .dstAddr) rfl, regWrite, writeDst, merge_full,
    BitVec.setWidth_ofNat_of_le (by decide)]

/-- The write of CMD on an idle block (R801). -/
theorem State.play_writeCommand (s : State) (w : Word) (hb : s.busy = false) :
    s.play (wr 0x00C w) = .next { s.issue w with turns := [] } := by
  rw [wr, State.play_write, hostWrite_reg (r := .cmd) rfl, regWrite, writeCmd_idle hb, State.play_nil]

/-- The destination descriptor after a line that names `d`, or none. -/
def namedDst (d : Option Nat) (old : BitVec 12) : BitVec 12 := (d.map (BitVec.ofNat 12)).getD old

/-- The whole line: its operands reach the descriptors, then the issue latches them (R313, R801). -/
theorem State.play_expand {s : State} (hb : s.busy = false) {c : CommandLine} (hc : c.sources.length ≤ 3) :
    s.play (expand c) = .next { State.issue (encode c.instr)
      { s with src := namedSources 0 c.sources s.src, dst := namedDst c.dst s.dst } with turns := [] } := by
  rw [expand, List.append_assoc, State.play_writeSources _ _ _ _ (by omega)]
  cases c.dst with
  | none => exact State.play_writeCommand _ _ hb
  | some d => exact (State.play_writeDst _ d _).trans (State.play_writeCommand _ _ hb)

theorem length_usedSources_le (i : Instr) : (usedSources i).length ≤ 3 := by cases i <;> simp [usedSources]

/-- The source operands of a well-formed line fit the descriptors (R311, R108). -/
theorem sources_of_commandLine_wf {c : CommandLine} (h : c.wf = true) :
    c.sources.length ≤ 3 ∧ ∀ o ∈ c.sources, o.addr < 4096 ∧ o.len < 8192 := by
  simp only [CommandLine.wf, CommandLine.sourcesPresent, CommandLine.sourcesFit, Bool.and_eq_true, beq_iff_eq, List.all_eq_true,
    decide_eq_true_eq] at h
  obtain ⟨⟨-, hlen⟩, hfit⟩ := h
  exact ⟨hlen ▸ length_usedSources_le c.instr, hfit⟩

/-- Settles O51, by the run of the whole line: each operand fits its descriptor. -/
theorem commandLineIssues : Obligations.CommandLineIssues := by
  intro s c hc hb
  obtain ⟨hlen, hfit⟩ := sources_of_commandLine_wf hc
  refine ⟨_, State.play_expand hb hlen, rfl, rfl, rfl, rfl, rfl, fun k o ho => ?_, fun k hk => ?_, ?_, rfl, rfl⟩
  · simpa [State.srcAddr, State.srcLen, namedSources, ho, descriptorOf] using hfit o (List.mem_of_getElem? ho)
  · simp [namedSources, hk]
  · show namedDst c.dst s.dst = _
    cases c.dst <;> rfl

end Sys2Proof.Machine
end

section
/-! The byte strings a host writes and reads on an idle block (R312, R204): the lanes of a word, the words a string touches, the
runs of WRB and RDB, and the obligation on them. -/

namespace Sys2Proof.Machine

open HostProgram

/-! ### Words of four lanes (R202, R204). -/

/-- The lanes of a word put together from bytes. -/
theorem wordByte_append4 (f : Nat → Byte) {j : Nat} (hj : j < 4) : wordByte (f 3 ++ f 2 ++ f 1 ++ f 0) j = f j := by
  have h0 := (f 0).isLt
  have h1 := (f 1).isLt
  have h2 := (f 2).isLt
  have h3 := (f 3).isLt
  apply BitVec.eq_of_toNat_eq
  simp only [toNat_wordByte, toNat_append_eq]
  interval_cases j <;> omega

/-- The strobes of a word put together one by one. -/
theorem getLsbD_append4 (f : Nat → Bool) {j : Nat} (hj : j < 4) :
    (BitVec.ofBool (f 3) ++ BitVec.ofBool (f 2) ++ BitVec.ofBool (f 1) ++ BitVec.ofBool (f 0)).getLsbD j = f j := by
  simp only [BitVec.getLsbD_append, BitVec.getLsbD_ofBool]
  interval_cases j <;> simp

/-! ### Window accesses at word addresses. -/

/-- The offset of a word of BUF. -/
theorem busTarget_word {w : Nat} (h4 : w % 4 = 0) (hw : w < 4096) : busTarget (BitVec.ofNat 13 (0x1000 + w)) = .window w := by
  have hoff : (BitVec.ofNat 13 (0x1000 + w)).toNat = 0x1000 + w := by
    rw [BitVec.toNat_ofNat]
    omega
  rw [busTarget_window_word (by omega) (by omega), hoff, Nat.add_sub_cancel_left]

/-! ### The words a byte string touches (R312). -/

theorem covers_iff (a : Nat) (v : List Byte) (b : Nat) : covers a v b = true ↔ a ≤ b ∧ b < a + v.length := by
  simp [covers]

/-- The words that a byte string inside BUF touches are words of BUF (R110). -/
theorem mem_wordsOf_bound {a n : Nat} (hfit : a + n ≤ 4096) : ∀ w ∈ wordsOf a n, w % 4 = 0 ∧ w < 4096 := by
  intro w h
  unfold wordsOf at h
  split at h
  · cases h
  · obtain ⟨i, hi, rfl⟩ := List.mem_map.1 h
    rw [List.mem_range] at hi
    omega

/-- Every byte of a string lies in a word it touches. -/
theorem word_mem_wordsOf {a n b : Nat} (hlo : a ≤ b) (hhi : b < a + n) : b / 4 * 4 ∈ wordsOf a n := by
  have hn : n ≠ 0 := by omega
  rw [wordsOf, if_neg hn]
  refine List.mem_map.2 ⟨b / 4 - a / 4, List.mem_range.2 ?_, ?_⟩ <;> omega

/-! ### WRB (R312). -/

/-- The data of the write of `WRB a, v` at the word `w`. -/
def wrbData (a : Nat) (v : List Byte) (w : Nat) : Word :=
  laneByte a v (w + 3) ++ laneByte a v (w + 2) ++ laneByte a v (w + 1) ++ laneByte a v w

/-- The strobes of that write. -/
def wrbStrobe (a : Nat) (v : List Byte) (w : Nat) : BitVec 4 :=
  BitVec.ofBool (covers a v (w + 3)) ++ BitVec.ofBool (covers a v (w + 2)) ++ BitVec.ofBool (covers a v (w + 1))
    ++ BitVec.ofBool (covers a v w)

theorem wordByte_wrbData (a : Nat) (v : List Byte) (w : Nat) {j : Nat} (hj : j < 4) :
    wordByte (wrbData a v w) j = laneByte a v (w + j) := wordByte_append4 (fun i => laneByte a v (w + i)) hj

theorem getLsbD_wrbStrobe (a : Nat) (v : List Byte) (w : Nat) {j : Nat} (hj : j < 4) :
    (wrbStrobe a v w).getLsbD j = covers a v (w + j) := getLsbD_append4 (fun i => covers a v (w + i)) hj

/-- BUF after the write of one word of `WRB a, v`. -/
def wrbStore (a : Nat) (v : List Byte) (m : Memory) (w : Nat) : Memory := writeWindow m w (wrbData a v w) (wrbStrobe a v w)

/-- One word write of WRB on an idle block. -/
theorem State.play_wrbWord (s : State) {a w : Nat} {v : List Byte} (hb : s.busy = false) (h4 : w % 4 = 0) (hw : w < 4096)
    (ts : List Turn) : s.play (wrbWord a v w :: ts) = ({ s with buf := wrbStore a v s.buf w } : State).play ts := by
  rw [wrbWord, State.play_write, hostWrite_window_idle (busTarget_word h4 hw) _ _ hb]
  rfl

/-- One word of WRB stores the bytes of the string that lie in it (R312, R204). -/
theorem read_wrbStore {m : Memory} (h : m.wf = true) (a : Nat) (v : List Byte) {w : Nat} (h4 : w % 4 = 0) (hw : w < 4096)
    (b : Nat) : (wrbStore a v m w).read b = if covers a v b = true ∧ b / 4 * 4 = w then laneByte a v b else m.read b := by
  have hfit : w + 3 < Config.bufSize := show w + 3 < 4096 by omega
  rw [wrbStore, read_writeWindow h hfit]
  by_cases hin : w ≤ b ∧ b < w + 4
  · obtain ⟨j, rfl⟩ := Nat.exists_eq_add_of_le hin.1
    have hj : j < 4 := by omega
    have hword : (w + j) / 4 * 4 = w := by omega
    rw [Nat.add_sub_cancel_left, getLsbD_wrbStrobe a v w hj, wordByte_wrbData a v w hj]
    simp [hin.1, hin.2, hword]
  · have hword : b / 4 * 4 ≠ w := by omega
    rw [if_neg (fun hl => hin ⟨hl.1, hl.2.1⟩), if_neg (fun hl => hword hl.2)]

theorem wf_wrbStore {m : Memory} (h : m.wf = true) (a : Nat) (v : List Byte) {w : Nat} (h4 : w % 4 = 0) (hw : w < 4096) :
    (wrbStore a v m w).wf = true :=
  wf_writeWindow h _ _ (show w + 3 < 4096 by omega)

/-- The words `ws` of `WRB a, v` store the bytes of the string that lie in them. -/
theorem State.play_wrbWords (a : Nat) (v : List Byte) (ws : List Nat) (s : State) (hws : ∀ w ∈ ws, w % 4 = 0 ∧ w < 4096)
    (hb : s.busy = false) (hbuf : s.buf.wf = true) :
    ∃ m : Memory, s.play (ws.map (wrbWord a v)) = .next { s with turns := [], buf := m } ∧
      ∀ b : Nat, m.read b = if covers a v b = true ∧ b / 4 * 4 ∈ ws then laneByte a v b else s.buf.read b := by
  induction ws generalizing s with
  | nil => exact ⟨s.buf, rfl, by simp⟩
  | cons w ws ih =>
    obtain ⟨⟨h4, hw⟩, hrest⟩ := List.forall_mem_cons.1 hws
    obtain ⟨m, hplay, hread⟩ := ih { s with buf := wrbStore a v s.buf w } hrest hb (wf_wrbStore hbuf a v h4 hw)
    refine ⟨m, by rw [List.map_cons, State.play_wrbWord s hb h4 hw, hplay], fun b => ?_⟩
    rw [hread, read_wrbStore hbuf a v h4 hw]
    by_cases hword : b / 4 * 4 ∈ ws <;> by_cases hcov : covers a v b = true <;> simp [hword, hcov]

/-- The whole of WRB (R312). -/
theorem State.play_wrb {s : State} {a : Nat} {v : List Byte} (hb : s.busy = false) (hbuf : s.buf.wf = true)
    (hfit : a + v.length ≤ 4096) :
    ∃ m : Memory, s.play (wrb a v) = .next { s with turns := [], buf := m } ∧
      ∀ b : Nat, m.read b = if a ≤ b ∧ b < a + v.length then v.getD (b - a) 0x00#8 else s.buf.read b := by
  obtain ⟨m, hplay, hread⟩ := State.play_wrbWords a v _ s (mem_wordsOf_bound hfit) hb hbuf
  refine ⟨m, hplay, fun b => (hread b).trans ?_⟩
  by_cases hcov : covers a v b = true
  · obtain ⟨hlo, hhi⟩ := (covers_iff a v b).1 hcov
    rw [if_pos ⟨hcov, word_mem_wordsOf hlo hhi⟩, if_pos ⟨hlo, hhi⟩, laneByte, if_pos hcov]
  · rw [if_neg (fun h => hcov h.1), if_neg (fun h => hcov ((covers_iff a v b).2 h))]

/-! ### RDB (R312). -/

/-- The read of RDB at the word `w`. -/
def rdbWord (w : Nat) : Turn := .read (BitVec.ofNat 13 (0x1000 + w))

theorem rdb_eq_map (a n : Nat) : rdb a n = (wordsOf a n).map rdbWord := List.map_eq_flatMap.symm

/-- One read of RDB on an idle block (R204). -/
theorem step_rdbWord {s : State} (hb : s.busy = false) {w : Nat} (h4 : w % 4 = 0) (hw : w < 4096) (ts : List Turn) :
    step { s with turns := rdbWord w :: ts } = .next { s with turns := ts, rdata := some (windowWord s.buf w) } := by
  rw [rdbWord, step_read, hostRead_window_idle (busTarget_word h4 hw) (s := { s with turns := ts }) hb]

/-- What one step adds to the words returned. -/
theorem returned_succ {s t : State} (h : step s = .next t) (k : Nat) :
    returned (k + 1) s = (if readsNext s.turns then t.rdata.toList else []) ++ returned k t := by
  rw [returned, h]

/-- The reads at the words `ws` return the words of BUF, and change nothing but the word returned last (R312, R202). -/
theorem play_rdbWords (ws : List Nat) (s : State) (hws : ∀ w ∈ ws, w % 4 = 0 ∧ w < 4096) (hb : s.busy = false) :
    returned (ws.map rdbWord).length { s with turns := ws.map rdbWord } = ws.map (windowWord s.buf) ∧
    ∃ r : Option Word, s.play (ws.map rdbWord) = .next { s with turns := [], rdata := r } := by
  induction ws generalizing s with
  | nil => exact ⟨rfl, s.rdata, rfl⟩
  | cons w ws ih =>
    obtain ⟨⟨h4, hw⟩, hrest⟩ := List.forall_mem_cons.1 hws
    have hstep := step_rdbWord hb h4 hw (ws.map rdbWord)
    obtain ⟨hret, r, hrun⟩ := ih { s with rdata := some (windowWord s.buf w) } hrest hb
    exact ⟨(returned_succ hstep _).trans (congrArg (windowWord s.buf w :: ·) hret), r, (run_succ _ _ _ hstep).trans hrun⟩

/-- The lanes of a BUF word are its four bytes (R204). -/
theorem lanes_windowWord (m : Memory) (a : Nat) :
    [wordByte (windowWord m a) 0, wordByte (windowWord m a) 1, wordByte (windowWord m a) 2, wordByte (windowWord m a) 3] =
      m.readBytes a 4 := by
  have hlane : ∀ j < 4, wordByte (windowWord m a) j = m.read (a + j) := fun j hj =>
    wordByte_append4 (fun i => m.read (a + i)) hj
  rw [hlane 0 (by decide), hlane 1 (by decide), hlane 2 (by decide), hlane 3 (by decide)]
  rfl

/-- Consecutive words are one byte string. -/
theorem flatMap_readBytes_words (m : Memory) (q c : Nat) :
    ((List.range c).map fun i => (q + i) * 4).flatMap (fun w => m.readBytes w 4) = m.readBytes (q * 4) (c * 4) := by
  induction c with
  | zero => simp
  | succ c ih =>
    rw [List.range_succ, List.map_append, List.flatMap_append, ih, Nat.succ_mul, Memory.readBytes_add]
    simp [Nat.add_mul]

/-- A part of a byte string read. -/
theorem take_drop_readBytes (m : Memory) {a k n l : Nat} (h : k + n ≤ l) :
    ((m.readBytes a l).drop k).take n = m.readBytes (a + k) n := by
  obtain ⟨r, rfl⟩ := Nat.exists_eq_add_of_le h
  rw [Nat.add_assoc, Memory.readBytes_add, Memory.readBytes_add, List.drop_left' (Memory.length_readBytes ..),
    List.take_left' (Memory.length_readBytes ..)]

/-- The bytes the host keeps of the words of `a .. a + n - 1` (R312). -/
theorem rdbBytes_windowWords (m : Memory) (a n : Nat) :
    rdbBytes a n ((wordsOf a n).map (windowWord m)) = m.readBytes a n := by
  unfold rdbBytes
  by_cases hn : n = 0
  · simp [hn]
  · have hlen : a % 4 + n ≤ ((a + n - 1) / 4 + 1 - a / 4) * 4 := by omega
    simp only [List.flatMap_map, lanes_windowWord]
    rw [wordsOf, if_neg hn, flatMap_readBytes_words, take_drop_readBytes m hlen]
    congr 1
    omega

/-- Settles O52: WRB word by word, RDB word by word and then lane by lane. -/
theorem wrbStoresRdbReads : Obligations.WrbStoresRdbReads := by
  refine ⟨fun s a v hb hbuf hfit => State.play_wrb hb hbuf hfit, fun s a n hb hfit => ?_⟩
  obtain ⟨hret, hrun⟩ := play_rdbWords (wordsOf a n) s (mem_wordsOf_bound hfit) hb
  rw [rdb_eq_map, hret]
  exact ⟨rdbBytes_windowWords s.buf a n, hrun⟩

end Sys2Proof.Machine
end

section
/-! The codec (R400-R403): `unpack` as a sum, the bytes of `pack`, the two round trips at every width, and the obligation on
them. -/

namespace Sys2Proof.Machine

/-- `unpack` is the sum of R401: one byte more at the bottom moves the others up by 8 bits. -/
theorem unpack_eq_sum (b : List Byte) :
    unpack b = ∑ i ∈ Finset.range b.length, (b.getD i 0#8).toNat * 2 ^ (8 * i) := by
  induction b with
  | nil => rfl
  | cons x xs ih =>
    have hhigh : ∀ i, ((x :: xs).getD (i + 1) 0#8).toNat * 2 ^ (8 * (i + 1)) =
        2 ^ 8 * ((xs.getD i 0#8).toNat * 2 ^ (8 * i)) := fun i => by
      rw [List.getD_cons_succ, Nat.mul_succ, Nat.pow_add]
      ring
    rw [unpack, ih, List.length_cons, Finset.sum_range_succ', Finset.mul_sum, Finset.sum_congr rfl fun i _ => hhigh i]
    simp [Nat.add_comm]

/-- Byte `i` of `pack_w(n)` is the low byte of `n >> 8i` (R402). -/
theorem getD_pack {w i : Nat} (n : Nat) (h : i < w) : (pack w n).getD i 0#8 = BitVec.ofNat 8 (n >>> (8 * i)) := by
  induction w generalizing n i with
  | zero => omega
  | succ w ih =>
    cases i with
    | zero => rfl
    | succ i =>
      rw [pack, List.getD_cons_succ, ih (n / 2 ^ 8) (by omega), ← Nat.shiftRight_eq_div_pow, ← Nat.shiftRight_add,
        Nat.mul_succ, Nat.add_comm]

/-- Packing in `w` bytes keeps the residue mod `2^(8w)` (R403). -/
theorem unpack_pack (w x : Nat) : unpack (pack w x) = x % 2 ^ (8 * w) := by
  induction w generalizing x with
  | zero => simp [Nat.mod_one]
  | succ w ih => rw [pack, unpack, ih, BitVec.toNat_ofNat, Nat.mul_succ, Nat.add_comm (8 * w), Nat.pow_add, Nat.mod_mul]

/-- Packing at its own length gives a byte string back (R403). -/
theorem pack_unpack (b : List Byte) : pack b.length (unpack b) = b := by
  induction b with
  | nil => rfl
  | cons x xs ih =>
    have hx := x.isLt
    have hlow : BitVec.ofNat 8 (unpack (x :: xs)) = x := by
      rw [unpack]
      bv_omega
    have hhigh : unpack (x :: xs) / 2 ^ 8 = unpack xs := by
      rw [unpack]
      omega
    rw [List.length_cons, pack, hlow, hhigh, ih]

/-- Settles O5: the sum and the round trips by induction on the bytes or the width, the bytes of `pack` through `getD_pack`. -/
theorem codecLittleEndianRoundTrip : Obligations.CodecLittleEndianRoundTrip := by
  refine ⟨unpack_eq_sum, fun w n => ⟨length_pack w n, fun i hi => ?_⟩, unpack_pack, pack_unpack⟩
  rw [getD_pack n hi, BitVec.toNat_ofNat, ← Nat.and_two_pow_sub_one_eq_mod]

end Sys2Proof.Machine
end

section
/-! Square-and-multiply is a power mod `m` (R506, R602), and the obligation on the inverse and affine conversion (R506, R507). -/

namespace Sys2Proof.Machine

/-! ### Square-and-multiply (R506, R602). -/

/-- One bit of the exponent: what it multiplies into the accumulator, times the square to half the exponent. -/
theorem pow_eq_ite_mul_sq_pow_half (x e : Nat) : x ^ e = (if e % 2 = 1 then x else 1) * (x * x) ^ (e / 2) := by
  rw [← sq, ← pow_mul]
  split
  · rw [← pow_succ']
    congr 1
    omega
  · rw [one_mul]
    congr 1
    omega

/-- The loop over the `k` lowest bits of an exponent they hold multiplies the accumulator by the power, mod `m`. -/
theorem powLoop_modEq (m : Nat) {k e : Nat} (x acc : Nat) (he : e < 2 ^ k) :
    powLoop m k x e acc ≡ acc * x ^ e [MOD m] := by
  induction k generalizing x e acc with
  | zero =>
    obtain rfl : e = 0 := by omega
    simp [powLoop, Nat.ModEq.rfl]
  | succ k ih =>
    have hacc : (if e % 2 = 1 then acc * x % m else acc) ≡ acc * (if e % 2 = 1 then x else 1) [MOD m] := by
      split
      · exact Nat.mod_modEq _ _
      · rw [mul_one]
    calc powLoop m (k + 1) x e acc
        ≡ (if e % 2 = 1 then acc * x % m else acc) * (x * x % m) ^ (e / 2) [MOD m] := ih _ _ (by omega)
      _ ≡ acc * (if e % 2 = 1 then x else 1) * (x * x) ^ (e / 2) [MOD m] := hacc.mul ((Nat.mod_modEq _ _).pow _)
      _ = acc * x ^ e := by rw [mul_assoc, ← pow_eq_ite_mul_sq_pow_half]

/-- The loop keeps a reduced accumulator reduced. -/
theorem powLoop_lt {m acc : Nat} (k x e : Nat) (hacc : acc < m) : powLoop m k x e acc < m := by
  induction k generalizing x e acc with
  | zero => exact hacc
  | succ k ih =>
    refine ih _ _ ?_
    split
    · exact Nat.mod_lt _ (by omega)
    · exact hacc

/-- From a reduced base and accumulator 1 the loop computes the power mod `m`. -/
theorem powLoop_mod_one {m k e : Nat} (b : Nat) (hm : 1 < m) (he : e < 2 ^ k) :
    powLoop m k (b % m) e 1 = b ^ e % m := by
  have h : powLoop m k (b % m) e 1 ≡ b ^ e [MOD m] := by
    simpa using (powLoop_modEq m (b % m) 1 he).trans (((Nat.mod_modEq b m).pow e).mul_left 1)
  rwa [Nat.ModEq, Nat.mod_eq_of_lt (powLoop_lt k _ e hm)] at h

/-! ### Inverse and affine conversion (R506, R507). -/

theorem one_lt_p25519 : 1 < Config.p25519 := by norm_num [Config.p25519]

theorem finv_eq_pow (z : Nat) : finv z = z ^ (Config.p25519 - 2) % Config.p25519 := by
  have hexp : Config.p25519 - 2 < 2 ^ 255 := by norm_num [Config.p25519]
  rw [finv, powLoop_mod_one z one_lt_p25519 hexp]

theorem finv_lt (z : Nat) : finv z < Config.p25519 := powLoop_lt _ _ _ one_lt_p25519

@[simp] theorem finv_mod (z : Nat) : finv (z % Config.p25519) = finv z := by rw [finv, Nat.mod_mod, ← finv]

theorem finv_eq_zero {z : Nat} (h : z % Config.p25519 = 0) : finv z = 0 := by
  have hexp : Config.p25519 - 2 ≠ 0 := by norm_num [Config.p25519]
  rw [finv_eq_pow]
  exact Nat.mod_eq_zero_of_dvd (dvd_pow (Nat.dvd_of_mod_eq_zero h) hexp)

theorem affine_eq_zero {q : Pair} (h : q.z % Config.p25519 = 0) : affine q = 0 := by
  rw [affine, finv_eq_zero h, Nat.mul_zero, Nat.zero_mod]

theorem affine_lt (q : Pair) : affine q < Config.p25519 := Nat.mod_lt _ (Nat.zero_lt_of_lt one_lt_p25519)

/-- Settles O9: the loop is a power mod p, and p − 2 is not 0. -/
theorem inverseIsFermatPower : Obligations.InverseIsFermatPower :=
  ⟨finv_eq_pow, fun _ => finv_eq_zero, fun _ => rfl, fun _ => affine_eq_zero⟩

end Sys2Proof.Machine
end

section
/-! The curve functions (R501, R504, R505, R508): the point formulas as integers and on residues, the depth of the ladder's
recursion, and the obligations on them. -/

namespace Sys2Proof.Machine

/-! ### Residues (R10, R501). -/

/-- p as an integer. -/
theorem natCast_p25519 : (Config.p25519 : Int) = 2 ^ 255 - 19 := by norm_num [Config.p25519]

/-- Integers that agree mod p have one residue. -/
theorem modP_congr {v w : Int} (h : v ≡ w [ZMOD Config.p25519]) : modP v = modP w := congrArg Int.toNat h

/-- A pair with both coordinates reduced mod p (R501). -/
def Pair.reduced (q : Pair) : Pair := ⟨q.x % Config.p25519, q.z % Config.p25519⟩

/-- Reduction keeps the residues of both coordinates. -/
theorem Pair.reduced_modEq (q : Pair) :
    (q.reduced.x : Int) ≡ q.x [ZMOD Config.p25519] ∧ (q.reduced.z : Int) ≡ q.z [ZMOD Config.p25519] :=
  ⟨Int.natCast_modEq_iff.2 (Nat.mod_modEq q.x _), Int.natCast_modEq_iff.2 (Nat.mod_modEq q.z _)⟩

theorem padd_reduced (n m d : Pair) : padd n.reduced m.reduced d.reduced = padd n m d := by
  obtain ⟨hnx, hnz⟩ := n.reduced_modEq
  obtain ⟨hmx, hmz⟩ := m.reduced_modEq
  obtain ⟨hdx, hdz⟩ := d.reduced_modEq
  rw [padd, padd, Pair.mk.injEq]
  constructor <;> (apply modP_congr; gcongr)

theorem pdbl_reduced (n : Pair) : pdbl n.reduced = pdbl n := by
  obtain ⟨hx, hz⟩ := n.reduced_modEq
  rw [pdbl, pdbl, Pair.mk.injEq]
  constructor <;> (apply modP_congr; gcongr)

theorem affine_reduced (q : Pair) : affine q.reduced = affine q := by
  rw [affine, affine, Pair.reduced, finv_mod, Nat.mod_mul_mod]

/-! ### The point formulas (R504, R505). -/

/-- Differential addition is symmetric in the two points (R504). -/
theorem padd_comm (n m d : Pair) : padd n m d = padd m n d := by
  rw [padd, padd, Pair.mk.injEq]
  constructor <;> (congr 1; ring)

/-- Settles O7: each coordinate is a residue of its formula, and the formulas of the sum are symmetric. -/
theorem pointFormulas : Obligations.PointFormulas := by
  have hcast (v : Int) : (modP v : Int) = v % (2 ^ 255 - 19) := by rw [natCast_modP, natCast_p25519]
  refine ⟨fun n m d => ⟨padd_comm n m d, hcast _, hcast _⟩, fun n => ⟨hcast _, ?_⟩⟩
  rw [pdbl_z, hcast]
  norm_cast

/-! ### The ladder (R508). -/

/-- A scalar of at most one bit: the base and its double, at every depth. -/
theorem ladderPair_of_le_one (u k : Nat) {m : Nat} (h : m ≤ 1) :
    ladderPair u k m = (ladderBase u, pdbl (ladderBase u)) := by
  cases k with
  | zero => rfl
  | succ k => exact if_pos h

/-- A longer scalar: one level of the recursion, which uses up one level of depth. -/
theorem ladderPair_of_two_le (u k : Nat) {m : Nat} (h : 2 ≤ m) :
    ladderPair u (k + 1) m = ladderStep (ladderBase u) (m % 2 = 1) (ladderPair u k (m / 2)) := if_neg (by omega)

/-- Depth beyond the bits of `m` below its top bit changes nothing (assumption log 17). -/
theorem ladderPair_succ_depth (u : Nat) {k m : Nat} (h : m < 2 ^ (k + 1)) : ladderPair u (k + 1) m = ladderPair u k m := by
  induction k generalizing m with
  | zero => rw [ladderPair_of_le_one u _ (by omega), ladderPair_of_le_one u _ (by omega)]
  | succ k ih =>
    obtain hm | hm : m ≤ 1 ∨ 2 ≤ m := by omega
    · rw [ladderPair_of_le_one u _ hm, ladderPair_of_le_one u _ hm]
    · rw [ladderPair_of_two_le u (k + 1) hm, ladderPair_of_two_le u k hm, ih (by omega)]

/-- Both coordinates lie in [0, p) (R501). -/
def Pair.inField (q : Pair) : Prop := q.x < Config.p25519 ∧ q.z < Config.p25519

theorem padd_inField (n m d : Pair) : (padd n m d).inField := ⟨modP_lt _, modP_lt _⟩

theorem pdbl_inField (n : Pair) : (pdbl n).inField := by
  rw [Pair.inField, pdbl_x, pdbl_z]
  exact ⟨modP_lt _, modP_lt _⟩

theorem ladderBase_inField (u : Nat) : (ladderBase u).inField :=
  ⟨Nat.mod_lt _ (Nat.zero_lt_of_lt one_lt_p25519), one_lt_p25519⟩

theorem ladder_inField (n u : Nat) : (ladder n u).inField := by
  unfold ladder
  by_cases hn : n ≤ 1
  · rw [ladderPair_of_le_one u _ hn]
    exact ladderBase_inField u
  · rw [ladderPair_of_two_le u _ (by omega), ladderStep]
    split
    · exact padd_inField _ _ _
    · exact pdbl_inField _

/-- The recursion takes the base in only through its residue (R501). -/
theorem ladder_mod (n u : Nat) : ladder n (u % Config.p25519) = ladder n u := by
  have hbase : ladderBase (u % Config.p25519) = ladderBase u := by rw [ladderBase, Nat.mod_mod, ← ladderBase]
  have hpair (k m : Nat) : ladderPair (u % Config.p25519) k m = ladderPair u k m := by
    induction k generalizing m with
    | zero => rw [ladderPair, ladderPair, hbase]
    | succ k ih => rw [ladderPair, ladderPair, hbase, ih]
  rw [ladder, ladder, hpair]

/-- Settles O8: the results are residues, or a reduced base and 1, and residues of the inputs give the same residues. -/
theorem curveResultsReduced : Obligations.CurveResultsReduced := by
  refine ⟨fun n m d => ?_, fun n => ?_, fun z => ?_, fun n u => ?_⟩
  · exact ⟨(padd_inField n m d).1, (padd_inField n m d).2, (padd_reduced n m d).symm⟩
  · exact ⟨(pdbl_inField n).1, (pdbl_inField n).2, (pdbl_reduced n).symm, affine_lt n, (affine_reduced n).symm⟩
  · exact ⟨finv_lt z, (finv_mod z).symm⟩
  · exact ⟨(ladder_inField n u).1, (ladder_inField n u).2, (ladder_mod n u).symm⟩

/-- Settles O10: a scalar below 2^256 needs 255 levels below its top one, so a depth of 256 gives both sides their value. -/
theorem ladderRecursion : Obligations.LadderRecursion := by
  refine fun u => ⟨ladderPair_of_le_one u _ le_rfl, fun m h2 h => ?_, fun n => rfl⟩
  have hhalf : ladderPair u 256 (m / 2) = ladderPair u 255 (m / 2) := ladderPair_succ_depth u (by omega)
  rw [ladderPair_of_two_le u 255 h2, ← hhalf]
  simp only [ladderStep, ladderBase, decide_eq_true_eq]

end Sys2Proof.Machine
end

section
/-! Clamping (R502, R503): the bits of a clamped integer, the bits of a byte string's integer, and the obligation on them. -/

namespace Sys2Proof.Machine

/-- The mask of R502 keeps bits 3 to 254. -/
theorem testBit_clampMask (j : Nat) : (2 ^ 256 - 1 - 7 - 2 ^ 255).testBit j = decide (3 ≤ j ∧ j < 255) := by
  have hmask : 2 ^ 256 - 1 - 7 - 2 ^ 255 = 2 ^ 3 * (2 ^ 252 - 1) := by norm_num
  rw [hmask, Nat.testBit_two_pow_mul, Nat.testBit_two_pow_sub_one, ← Bool.decide_and, decide_eq_decide]
  omega

/-- The bits of a clamped integer, of any size (R502). -/
theorem testBit_clamp (n j : Nat) :
    (clamp n).testBit j = (n.testBit j && decide (3 ≤ j ∧ j < 255) || decide (254 = j)) := by
  rw [clamp, Nat.testBit_or, Nat.testBit_and, testBit_clampMask, Nat.testBit_two_pow]

theorem clamp_ge (n : Nat) : 2 ^ 254 ≤ clamp n := Nat.right_le_or

theorem clamp_lt (n : Nat) : clamp n < 2 ^ 255 := by
  refine Nat.lt_pow_two_of_testBit _ fun j hj => ?_
  have hlow : ¬ (3 ≤ j ∧ j < 255) := by omega
  have htop : ¬ 254 = j := by omega
  simp [testBit_clamp, hlow, htop]

theorem clamp_mod_eight (n : Nat) : clamp n % 8 = 0 := by
  refine Nat.eq_of_testBit_eq fun j => ?_
  have hmod : (clamp n % 2 ^ 3).testBit j = false := by
    rw [Nat.testBit_mod_two_pow, testBit_clamp]
    by_cases hj : j < 3
    · have htop : ¬ 254 = j := by omega
      simp [hj, htop]
    · simp [hj]
  simpa using hmod

/-- Bit `j` of `unpack` is bit `j mod 8` of byte `j div 8` (R401). -/
theorem testBit_unpack (b : List Byte) (j : Nat) : (unpack b).testBit j = (b.getD (j / 8) 0#8).getLsbD (j % 8) := by
  induction b generalizing j with
  | nil => simp
  | cons x xs ih =>
    rw [unpack, Nat.add_comm, Nat.testBit_two_pow_mul_add _ x.isLt]
    split
    · next hj => rw [Nat.div_eq_of_lt hj, Nat.mod_eq_of_lt hj]; rfl
    · next hj =>
      have hdiv : j / 8 = (j - 8) / 8 + 1 := by omega
      have hmod : j % 8 = (j - 8) % 8 := by omega
      rw [ih, hdiv, hmod, List.getD_cons_succ]

/-- The bytes of a clamped string (R503). -/
theorem getD_clampBytes {b : List Byte} (h : b.length = 32) (i : Nat) : (clampBytes b).getD i 0#8 =
    if i = 0 then b.getD 0 0#8 &&& 0xF8#8
    else if i = 31 then (b.getD 31 0#8 &&& 0x7F#8) ||| 0x40#8 else b.getD i 0#8 := by
  simp only [clampBytes, List.getD_eq_getElem?_getD, List.getElem?_modify]
  by_cases h0 : i = 0
  · subst h0
    simp [h]
  · by_cases h31 : i = 31
    · subst h31
      simp [h]
    · simp [h0, h31, Ne.symm h0, Ne.symm h31]

/-- Clamping the bytes is clamping the integer (R503). -/
theorem unpack_clampBytes {b : List Byte} (h : b.length = 32) : unpack (clampBytes b) = clamp (unpack b) := by
  refine Nat.eq_of_testBit_eq fun j => ?_
  have hlow : ∀ k < 8, (0xF8#8).getLsbD k = decide (3 ≤ k) := by decide
  have hhigh : ∀ k < 8, (0x7F#8).getLsbD k = decide (k < 7) ∧ (0x40#8).getLsbD k = decide (6 = k) := by decide
  have hk : j % 8 < 8 := Nat.mod_lt _ (by decide)
  obtain ⟨hkeep, hset⟩ := hhigh _ hk
  rw [testBit_clamp, testBit_unpack, testBit_unpack, getD_clampBytes h]
  split
  · next h0 =>
    rw [BitVec.getLsbD_and, hlow _ hk, h0]
    grind
  · split
    · next h31 =>
      rw [BitVec.getLsbD_or, BitVec.getLsbD_and, hkeep, hset, h31]
      grind
    · have hbeyond : 256 ≤ j → b.getD (j / 8) 0#8 = 0#8 := fun hj => List.getD_eq_default _ _ (by omega)
      grind

/-- Settles O6, bit by bit; an integer below 2^256 has no bit from 256 on, where `testBit_clamp` clears it. -/
theorem clampBitsAndBytes : Obligations.ClampBitsAndBytes := by
  refine ⟨fun n hn => ⟨fun j => ?_, clamp_ge n, clamp_lt n, clamp_mod_eight n⟩,
    fun b hb => ⟨unpack_clampBytes hb, getD_clampBytes hb⟩⟩
  have hhigh : 256 ≤ j → n.testBit j = false := fun hj =>
    Nat.testBit_lt_two_pow (hn.trans_le (Nat.pow_le_pow_right (by decide) hj))
  rw [testBit_clamp]
  grind

end Sys2Proof.Machine
end

section
/-! How a legal command ends, by the tests of `check` (R902, R903): one lemma per end, then the commands with an exact length
for each source in the form their statements have. -/

namespace Sys2Proof.Machine

/-! ### The ends of a command. -/

theorem exec_of_success {i : Instr} {s : State} {eff : Effect} (hc : check i s.lat s.poly = .ok)
    (ho : operationOf s.pDh i (inputsOf i s) = .ok eff) : exec i s = .next (s.succeeded eff.out eff.poly) := by
  rw [exec_eq_runCommand, runCommand_of_success hc ho (length_out_operationOf _ i s eff hc ho)]

/-- A command that stores `v` and leaves P (R407). -/
theorem exec_of_write {i : Instr} {s : State} {v : List Byte} (hc : check i s.lat s.poly = .ok)
    (ho : operationOf s.pDh i (inputsOf i s) = .ok ((inputsOf i s).write v)) :
    exec i s = .next (s.succeeded v s.poly) := exec_of_success hc ho

theorem exec_of_abort {i : Instr} {s : State} {e : ErrCode} (hc : check i s.lat s.poly = .ok)
    (ho : operationOf s.pDh i (inputsOf i s) = .error e) : exec i s = .next (s.failed e) := by
  rw [exec_eq_runCommand, runCommand_of_abort hc ho]

theorem exec_of_check_eq {i : Instr} {s : State} {e : ErrCode} (hc : check i s.lat s.poly = e) (he : e ≠ .ok) :
    exec i s = .next (s.failed e) := by
  subst hc
  rw [exec_eq_runCommand, runCommand_of_check_ne he]

/-- A source length that breaks its contract comes before every other cause (R903). -/
theorem exec_of_bad_length {i : Instr} {s : State} (hl : ¬ lengthsOk i s.lat = true) :
    exec i s = .next (s.failed .invalidLength) :=
  exec_of_check_eq (by simp [check, hl]) (by decide)

/-- With good lengths, a range outside BUF comes before the causes in P (R903). -/
theorem exec_of_bad_range {i : Instr} {s : State} (hl : lengthsOk i s.lat = true)
    (hr : ¬ (sourcesInRange i s.lat = true ∧ dstInRange i s.lat = true)) : exec i s = .next (s.failed .badRange) := by
  refine exec_of_check_eq ?_ (by decide)
  by_cases hs : sourcesInRange i s.lat = true
  · have hd : ¬ dstInRange i s.lat = true := fun hd => hr ⟨hs, hd⟩
    simp [check, hl, hs, hd]
  · simp [check, hl, hs]

/-- Lengths and ranges are all that is checked of a command outside the Poly1305 life cycle (R706, R902). -/
theorem check_ok_of_not_needsAccum {i : Instr} {l : Latch} (p : Poly) (hn : needsAccum i = false)
    (hl : lengthsOk i l = true) (hs : sourcesInRange i l = true) (hd : dstInRange i l = true) : check i l p = .ok := by
  have hblock : i ≠ .pBlock := by
    rintro rfl
    cases hn
  simp [check, hn, hl, hs, hd, hblock]

/-- The checks in the terms of a statement: `L` says that the lengths are good and, when they are, `R` that the ranges are. -/
theorem exec_checks {i : Instr} (hn : needsAccum i = false) {s : State} {L R : Prop} (hL : lengthsOk i s.lat = true ↔ L)
    (hR : L → (sourcesInRange i s.lat = true ∧ dstInRange i s.lat = true ↔ R)) :
    (L → R → check i s.lat s.poly = .ok) ∧ (¬ L → exec i s = .next (s.failed .invalidLength)) ∧
    (L → ¬ R → exec i s = .next (s.failed .badRange)) := by
  refine ⟨fun l r => ?_, fun l => exec_of_bad_length (mt hL.1 l), fun l r => exec_of_bad_range (hL.2 l) (mt (hR l).1 r)⟩
  obtain ⟨hs, hd⟩ := (hR l).2 r
  exact check_ok_of_not_needsAccum _ hn (hL.2 l) hs hd

/-! ### Commands with exact lengths that store a result. -/

/-- A command with one source of `k` bytes and the result `v`. -/
theorem exec_oneSource {i : Instr} {k : Nat} (hu : usedSources i = [(0, .exactly k)]) (hn : needsAccum i = false)
    (hout : outlen i ≠ 0) {s : State} {v : List Byte}
    (hop : operationOf s.pDh i (inputsOf i s) = .ok ((inputsOf i s).write v)) :
    (s.srcLen 0 = k → InBuf (s.srcAddr 0) k → InBuf s.dstAt (outlen i) → exec i s = .next (s.succeeded v s.poly)) ∧
    (s.srcLen 0 ≠ k → exec i s = .next (s.failed .invalidLength)) ∧
    (s.srcLen 0 = k → ¬ (InBuf (s.srcAddr 0) k ∧ InBuf s.dstAt (outlen i)) → exec i s = .next (s.failed .badRange)) := by
  have hL : lengthsOk i s.lat = true ↔ s.srcLen 0 = k := by simp [lengthsOk_eq, hu, Contract.holds]
  have hR : s.srcLen 0 = k → (sourcesInRange i s.lat = true ∧ dstInRange i s.lat = true ↔
      InBuf (s.srcAddr 0) k ∧ InBuf s.dstAt (outlen i)) := by
    rintro rfl
    simp [sourcesInRange_eq, dstInRange_eq, hu, hout]
  obtain ⟨hcheck, hlen, hrange⟩ := exec_checks hn hL hR
  exact ⟨fun hl hs hd => exec_of_write (hcheck hl ⟨hs, hd⟩) hop, hlen, hrange⟩

/-- A command with sources of `k` and `k'` bytes that aborts with `e` under the condition `D` and else has the result `v`. -/
theorem exec_twoSources {i : Instr} {k k' : Nat} (hu : usedSources i = [(0, .exactly k), (1, .exactly k')])
    (hn : needsAccum i = false) (hout : outlen i ≠ 0) {s : State} {v : List Byte} {e : ErrCode} {D : Prop}
    (hop : ¬ D → operationOf s.pDh i (inputsOf i s) = .ok ((inputsOf i s).write v))
    (habort : D → operationOf s.pDh i (inputsOf i s) = .error e) :
    (s.srcLen 0 = k → s.srcLen 1 = k' → InBuf (s.srcAddr 0) k → InBuf (s.srcAddr 1) k' → InBuf s.dstAt (outlen i) →
      (¬ D → exec i s = .next (s.succeeded v s.poly)) ∧ (D → exec i s = .next (s.failed e))) ∧
    (¬ (s.srcLen 0 = k ∧ s.srcLen 1 = k') → exec i s = .next (s.failed .invalidLength)) ∧
    (s.srcLen 0 = k → s.srcLen 1 = k' →
      ¬ (InBuf (s.srcAddr 0) k ∧ InBuf (s.srcAddr 1) k' ∧ InBuf s.dstAt (outlen i)) →
      exec i s = .next (s.failed .badRange)) := by
  have hL : lengthsOk i s.lat = true ↔ s.srcLen 0 = k ∧ s.srcLen 1 = k' := by simp [lengthsOk_eq, hu, Contract.holds]
  have hR : s.srcLen 0 = k ∧ s.srcLen 1 = k' → (sourcesInRange i s.lat = true ∧ dstInRange i s.lat = true ↔
      InBuf (s.srcAddr 0) k ∧ InBuf (s.srcAddr 1) k' ∧ InBuf s.dstAt (outlen i)) := by
    rintro ⟨rfl, rfl⟩
    simp [sourcesInRange_eq, dstInRange_eq, hu, hout, and_assoc]
  obtain ⟨hcheck, hlen, hrange⟩ := exec_checks hn hL hR
  refine ⟨fun h0 h1 hs0 hs1 hd => ?_, hlen, fun h0 h1 => hrange ⟨h0, h1⟩⟩
  have hok := hcheck ⟨h0, h1⟩ ⟨hs0, hs1, hd⟩
  exact ⟨fun hD => exec_of_write hok (hop hD), fun hD => exec_of_abort hok (habort hD)⟩

end Sys2Proof.Machine
end

section
/-! The completions of the curve commands (R510-R517). -/

namespace Sys2Proof.Machine

/-- Settles O16. -/
theorem xClampCompletes : Obligations.XClampCompletes := by
  refine ⟨by decide, fun s => exec_oneSource (i := .xClamp) rfl rfl (by decide) ?_⟩
  rw [operationOf, opXClamp, inputsOf_src0 rfl]

/-- Settles O17: three sources, by the same checks. -/
theorem xPaddCompletes : Obligations.XPaddCompletes := by
  refine ⟨by decide, fun s => ?_⟩
  have hL : lengthsOk .xPadd s.lat = true ↔ s.srcLen 0 = 64 ∧ s.srcLen 1 = 64 ∧ s.srcLen 2 = 64 := by
    simp [lengthsOk_eq, usedSources, Contract.holds]
  have hR : s.srcLen 0 = 64 ∧ s.srcLen 1 = 64 ∧ s.srcLen 2 = 64 →
      (sourcesInRange .xPadd s.lat = true ∧ dstInRange .xPadd s.lat = true ↔
        InBuf (s.srcAddr 0) 64 ∧ InBuf (s.srcAddr 1) 64 ∧ InBuf (s.srcAddr 2) 64 ∧ InBuf s.dstAt 64) := by
    rintro ⟨h0, h1, h2⟩
    simp [sourcesInRange_eq, dstInRange_eq, usedSources, outlen, h0, h1, h2, and_assoc]
  have hop : operationOf s.pDh .xPadd (inputsOf .xPadd s) = .ok ((inputsOf .xPadd s).write
      (packPair (padd (unpackPair (s.srcBytes 0)) (unpackPair (s.srcBytes 1)) (unpackPair (s.srcBytes 2))))) := by
    rw [operationOf, opXPadd, inputsOf_src0 rfl, inputsOf_src1 rfl, inputsOf_src2 rfl]
  obtain ⟨hcheck, hlen, hrange⟩ := exec_checks rfl hL hR
  exact ⟨fun h0 h1 h2 hs0 hs1 hs2 hd => exec_of_write (hcheck ⟨h0, h1, h2⟩ ⟨hs0, hs1, hs2, hd⟩) hop, hlen,
    fun h0 h1 h2 => hrange ⟨h0, h1, h2⟩⟩

/-- Settles O18. -/
theorem xPdblCompletes : Obligations.XPdblCompletes := by
  refine ⟨by decide, fun s => exec_oneSource (i := .xPdbl) rfl rfl (by decide) ?_⟩
  rw [operationOf, opXPdbl, inputsOf_src0 rfl]

/-- Settles O19: the loop's result is the power. -/
theorem xInvCompletes : Obligations.XInvCompletes := by
  refine ⟨by decide, fun s => exec_oneSource (i := .xInv) rfl rfl (by decide) ?_⟩
  rw [operationOf, opXInv, inputsOf_src0 rfl, finv_eq_pow]

/-- Settles O20: the inverse is reduced before it is multiplied, which the last reduction hides. -/
theorem xAffineCompletes : Obligations.XAffineCompletes := by
  refine ⟨by decide, fun s => exec_oneSource (i := .xAffine) rfl rfl (by decide) ?_⟩
  rw [operationOf, opXAffine, inputsOf_src0 rfl, affine, finv_eq_pow, Nat.mul_mod_mod, unpackPair]

/-- Settles O21: the operation aborts exactly for the scalar 0. -/
theorem xLadderCompletes : Obligations.XLadderCompletes := by
  refine ⟨by decide, fun s => exec_twoSources (i := .xLadder) rfl rfl (by decide) (fun hn => ?_) (fun hn => ?_)⟩ <;>
    rw [operationOf, opXLadder, inputsOf_src0 rfl, inputsOf_src1 rfl]
  · exact if_neg hn
  · exact if_pos hn

/-- Settles O22. -/
theorem xPubCompletes : Obligations.XPubCompletes := by
  refine ⟨by decide, fun s => exec_oneSource (i := .xPub) rfl rfl (by decide) ?_⟩
  rw [operationOf, opXPub, inputsOf_src0 rfl]

/-- Settles O23: the operation aborts exactly for a zero result with the check on. -/
theorem xSharedCompletes : Obligations.XSharedCompletes := by
  refine ⟨by decide, fun s => exec_twoSources (i := .xShared) rfl rfl (by decide) (fun hv => ?_) (fun hv => ?_)⟩ <;>
    rw [operationOf, opXShared, inputsOf_src0 rfl, inputsOf_src1 rfl, inputsOf_degen]
  · exact if_neg hv
  · exact if_pos hv

end Sys2Proof.Machine
end

section
/-! The Diffie-Hellman commands (R602-R607): the loop of `modexp` as a power mod P_DH, the completions of DH_MODEXP, DH_PUB and
DH_SHARED, and the agreement of two parties that exchanged their public values. -/

namespace Sys2Proof.Machine

/-! ### Modular exponentiation (R602). -/

theorem modexp_eq_pow {m e : Nat} (b : Nat) (hm : 1 < m) (he : e < 2 ^ 256) : modexp m b e = b ^ e % m :=
  powLoop_mod_one b hm he

theorem modexp_lt {m : Nat} (b e : Nat) (hm : 1 < m) : modexp m b e < m := powLoop_lt _ _ _ hm

/-- Settles O11. -/
theorem modexpIsPower : Obligations.ModexpIsPower := fun _ b e hm he => ⟨modexp_eq_pow b hm he, modexp_lt b e hm⟩

/-- A source of 32 bytes is an exponent the 256 iterations exhaust. -/
theorem modexp_srcBytes_eq_pow {m : Nat} (b : Nat) {s : State} {k : Fin 3} (hm : 1 < m) (hk : s.srcLen k = 32) :
    modexp m b (unpack (s.srcBytes k)) = b ^ unpack (s.srcBytes k) % m := by
  have he := unpack_lt (s.srcBytes k)
  rw [length_srcBytes, hk] at he
  exact modexp_eq_pow b hm he

/-! ### The completions (R603-R606). -/

/-- Settles O24: the operation never aborts (`D` is `False`), and with a source of 32 bytes the loop's result is the power. -/
theorem dhModexpCompletes : Obligations.DhModexpCompletes := by
  refine ⟨by decide, fun s => ?_⟩
  have hop : operationOf s.pDh .dhModexp (inputsOf .dhModexp s) = .ok ((inputsOf .dhModexp s).write
      (pack 256 (modexp s.pDh (unpack (s.srcBytes 0)) (unpack (s.srcBytes 1))))) := by
    rw [operationOf, opDhModexp, inputsOf_src0 rfl, inputsOf_src1 rfl]
  obtain ⟨hrun, hlen, hrange⟩ := exec_twoSources (i := .dhModexp) (e := .degenerate) (D := False) rfl rfl (by decide)
    (fun _ => hop) False.elim
  refine ⟨fun hm h0 h1 hs0 hs1 hd => ?_, hlen, hrange⟩
  rw [← modexp_srcBytes_eq_pow _ hm h1]
  exact (hrun h0 h1 hs0 hs1 hd).1 not_false

/-- Settles O25: with a source of 32 bytes the loop's result is the power. -/
theorem dhPubCompletes : Obligations.DhPubCompletes := by
  refine ⟨by decide, fun s => ?_⟩
  have hop : operationOf s.pDh .dhPub (inputsOf .dhPub s) =
      .ok ((inputsOf .dhPub s).write (pack 256 (modexp s.pDh 2 (unpack (s.srcBytes 0))))) := by
    rw [operationOf, opDhPub, inputsOf_src0 rfl]
  obtain ⟨hrun, hlen, hrange⟩ := exec_oneSource (i := .dhPub) rfl rfl (by decide) hop
  refine ⟨fun hm h0 hs0 hd => ?_, hlen, hrange⟩
  rw [← modexp_srcBytes_eq_pow _ hm h0]
  exact hrun h0 hs0 hd

theorem dhDegenerate_iff (m y : Nat) : dhDegenerate m y = true ↔ y % m ∈ [0, 1, m - 1] := by
  simp [dhDegenerate, or_assoc]

/-- Settles O26: the operation aborts exactly for a degenerate peer with the check on. -/
theorem dhSharedCompletes : Obligations.DhSharedCompletes := by
  refine ⟨by decide, fun s => ?_⟩
  have hop : operationOf s.pDh .dhShared (inputsOf .dhShared s) =
      if s.lat.degen = true ∧ unpack (s.srcBytes 1) % s.pDh ∈ [0, 1, s.pDh - 1] then .error .degenerate
      else .ok ((inputsOf .dhShared s).write (pack 256 (modexp s.pDh (unpack (s.srcBytes 1)) (unpack (s.srcBytes 0))))) := by
    simp only [operationOf, opDhShared, inputsOf_src0 (i := .dhShared) rfl, inputsOf_src1 (i := .dhShared) rfl, inputsOf_degen,
      dhDegenerate_iff]
  obtain ⟨hrun, hlen, hrange⟩ := exec_twoSources (i := .dhShared) rfl rfl (by decide)
    (fun hn => hop.trans (if_neg hn)) (fun hy => hop.trans (if_pos hy))
  refine ⟨fun hm h0 h1 hs0 hs1 hd => ?_, hlen, hrange⟩
  rw [← modexp_srcBytes_eq_pow _ hm h0]
  exact hrun h0 h1 hs0 hs1 hd

/-! ### The shared secret of two parties (R607). -/

/-- `w` bytes hold every residue mod a number of at most `2^(8w)`. -/
theorem unpack_pack_mod {w m : Nat} (x : Nat) (hm : 0 < m) (hw : m ≤ 2 ^ (8 * w)) : unpack (pack w (x % m)) = x % m := by
  rw [unpack_pack]
  exact Nat.mod_eq_of_lt ((Nat.mod_lt x hm).trans_le hw)

theorem applies_degenerate_dhShared (s : State) : applies .degenerate .dhShared s ↔
    s.lat.degen = true ∧ unpack (s.srcBytes 1) % s.pDh ∈ [0, 1, s.pDh - 1] := by
  simp [applies]

/-- With a public value `2^e` for the peer, DH_SHARED answers 2 to the product of the two exponents. -/
theorem exec_dhShared_of_public_peer {s : State} {e : Nat} (hm : 1 < s.pDh) (hm' : s.pDh ≤ 2 ^ 2048)
    (h0 : s.srcLen 0 = 32) (h1 : s.srcLen 1 = 256) (hs0 : InBuf (s.srcAddr 0) 32) (hs1 : InBuf (s.srcAddr 1) 256)
    (hd : InBuf s.dstAt 256) (hpeer : s.srcBytes 1 = pack 256 (2 ^ e % s.pDh)) (hn : ¬ applies .degenerate .dhShared s) :
    exec .dhShared s = .next (s.succeeded (pack 256 (2 ^ (e * unpack (s.srcBytes 0)) % s.pDh)) s.poly) := by
  have hw : s.pDh ≤ 2 ^ (8 * 256) := by simpa only [Nat.reduceMul] using hm'
  have hpow : unpack (s.srcBytes 1) ^ unpack (s.srcBytes 0) % s.pDh = 2 ^ (e * unpack (s.srcBytes 0)) % s.pDh := by
    rw [hpeer, unpack_pack_mod _ (by omega) hw, ← Nat.pow_mod, ← Nat.pow_mul]
  rw [applies_degenerate_dhShared] at hn
  rw [← hpow]
  exact ((dhSharedCompletes.2 s).1 hm h0 h1 hs0 hs1 hd).1 hn

/-- Settles O36: the product of the two exponents does not depend on their order. -/
theorem dhSharedSymmetry : Obligations.DhSharedSymmetry := by
  intro s t hp hm hm' hs0 hs1 hsa0 hsa1 hsd ht0 ht1 hta0 hta1 htd hspeer htpeer hsn htn
  rw [← hp] at htpeer
  refine ⟨_, exec_dhShared_of_public_peer hm hm' hs0 hs1 hsa0 hsa1 hsd hspeer hsn, ?_⟩
  rw [Nat.mul_comm, ← hp]
  exact exec_dhShared_of_public_peer (hp ▸ hm) (hp ▸ hm') ht0 ht1 hta0 hta1 htd htpeer htn

end Sys2Proof.Machine
end

section
/-! The Poly1305 accumulator (R701-R705, R707): the number of a chunk, a stream cut into 16-byte chunks, one byte of the stream,
a whole segment, and the obligations on absorbing, streaming and the tag. -/

namespace Sys2Proof.Machine

/-! ### Chunks. -/

/-- The extra bit is the top bit of a chunk's number, so the number fixes the length, and the low bits fix the bytes (R701). -/
theorem chunkNumber_injective : Function.Injective chunkNumber := by
  intro c c' h
  have hlog : ∀ d : List Byte, Nat.log 2 (chunkNumber d) = 8 * d.length := fun d => by
    have hlt := unpack_lt d
    refine Nat.log_eq_of_pow_le_of_lt_pow (Nat.le_add_left _ _) ?_
    rw [chunkNumber, Nat.pow_succ]
    omega
  have hlen : c.length = c'.length := by
    have hbits : 8 * c.length = 8 * c'.length := by rw [← hlog, h, hlog]
    omega
  have hnum : unpack c = unpack c' := by
    rw [chunkNumber, chunkNumber, hlen] at h
    exact Nat.add_right_cancel h
  rw [← pack_unpack c, hlen, hnum, pack_unpack]

/-- Settles O12. -/
theorem absorbChunk : Obligations.AbsorbChunk :=
  ⟨fun _ _ => ⟨rfl, Nat.mod_lt _ (by decide)⟩, fun _ _ h => chunkNumber_injective h⟩

@[simp] theorem referenceAcc_nil (r acc : Nat) : referenceAcc r acc [] = acc := rfl

theorem referenceAcc_append (r acc : Nat) (cs ds : List (List Byte)) :
    referenceAcc r acc (cs ++ ds) = referenceAcc r (referenceAcc r acc cs) ds := List.foldl_append

theorem Poly.absorb_pacc (p : Poly) (c : List Byte) : (p.absorb c).pacc = referenceAcc p.pr.toNat p.pacc [c] := rfl

/-- Absorbing chunks one by one is the reference's accumulator (R701, R704). -/
theorem Poly.foldl_absorb (p : Poly) (cs : List (List Byte)) :
    cs.foldl Poly.absorb p = { p with pacc := referenceAcc p.pr.toNat p.pacc cs } := by
  induction cs generalizing p with
  | nil => rfl
  | cons c cs ih => rw [List.foldl_cons, ih]; rfl

/-! ### A stream cut into chunks. -/

/-- The largest multiple of 16 up to the length of `b`. -/
def completeLength (b : List Byte) : Nat := b.length / 16 * 16

theorem completeLength_of_lt {b : List Byte} (h : b.length < 16) : completeLength b = 0 := by
  rw [completeLength]
  omega

theorem completeLength_append {c : List Byte} (hc : c.length = 16) (b : List Byte) :
    completeLength (c ++ b) = c.length + completeLength b := by
  rw [completeLength, completeLength, List.length_append]
  omega

theorem length_drop_completeLength (b : List Byte) : (b.drop (completeLength b)).length = b.length % 16 := by
  rw [List.length_drop, completeLength]
  omega

@[simp] theorem chunksOf_nil (n : Nat) : chunksOf n [] = [] := by cases n <;> rfl

theorem chunksOf_succ_of_lt {b : List Byte} (h : b.length < 16) (n : Nat) :
    chunksOf (n + 1) b = if b.isEmpty then [] else [b] := by
  rw [chunksOf, List.take_of_length_le h.le, List.drop_of_length_le h.le, chunksOf_nil]

/-- A 16-byte block at the front of a stream is its first chunk. -/
theorem chunksOf_succ_append {c : List Byte} (hc : c.length = 16) (n : Nat) (b : List Byte) :
    chunksOf (n + 1) (c ++ b) = c :: chunksOf n b := by
  have hne : ¬ (c ++ b).isEmpty = true := by
    rw [List.isEmpty_iff_length_eq_zero, List.length_append]
    omega
  rw [chunksOf, if_neg hne, ← hc, List.take_left, List.drop_left]

/-- The chunks of a stream are its complete ones and the rest, if there is one. -/
theorem chunksOf_eq_complete_append {b : List Byte} {n : Nat} (hn : b.length ≤ n) :
    chunksOf n b = chunksOf n (b.take (completeLength b)) ++ chunksOf 1 (b.drop (completeLength b)) := by
  induction n generalizing b with
  | zero => simp [List.length_eq_zero_iff.1 (Nat.le_zero.1 hn)]
  | succ n ih =>
    by_cases h : b.length < 16
    · rw [completeLength_of_lt h, List.take_zero, List.drop_zero, chunksOf_nil, List.nil_append, chunksOf_succ_of_lt h,
        chunksOf_succ_of_lt h]
    · obtain ⟨c, d, rfl, hc⟩ : ∃ c d, b = c ++ d ∧ c.length = 16 :=
        ⟨_, _, (List.take_append_drop 16 b).symm, List.length_take_of_le (by omega)⟩
      rw [List.length_append] at hn
      rw [completeLength_append hc, List.take_length_add_append, List.drop_length_add_append, chunksOf_succ_append hc,
        chunksOf_succ_append hc, ih (by omega), List.cons_append]

/-! ### One byte of the stream (R703). -/

@[simp] theorem Poly.length_tailBytes (p : Poly) : p.tailBytes.length = p.ptlen.val := by
  have := p.ptlen.isLt
  rw [Poly.tailBytes, List.length_take, Vector.length_toList]
  omega

theorem Poly.tailBytes_of_ptlen_zero {p : Poly} (h : p.ptlen.val = 0) : p.tailBytes = [] :=
  List.length_eq_zero_iff.1 (p.length_tailBytes.trans h)

/-- The sixteenth byte completes a block, which is absorbed. -/
theorem Poly.feed_of_full {p : Poly} (h : p.ptlen.val = 15) (x : Byte) :
    p.feed x = { p.absorb (p.tailBytes ++ [x]) with ptail := Vector.replicate 15 0#8, ptlen := 0 } := by
  have htail : p.tailBytes = p.ptail.toList := List.take_of_length_le (by rw [Vector.length_toList, h])
  rw [Poly.feed, dif_pos h, htail]

/-- Any other byte is buffered behind the others. -/
theorem Poly.tailBytes_feed_of_not_full {p : Poly} (h : p.ptlen.val ≠ 15) (x : Byte) :
    (p.feed x).tailBytes = p.tailBytes ++ [x] := by
  have hlt := p.ptlen.isLt
  have hlen : p.ptlen.val < (p.ptail.toList.set p.ptlen.val x).length := by
    rw [List.length_set, Vector.length_toList]
    omega
  rw [Poly.feed, dif_neg h]
  simp only [Poly.tailBytes, Vector.toList_set]
  rw [List.take_succ_eq_append_getElem hlen, List.getElem_set_self, List.take_set_of_le (Nat.le_refl _)]

theorem Poly.feed_pacc_of_not_full {p : Poly} (h : p.ptlen.val ≠ 15) (x : Byte) : (p.feed x).pacc = p.pacc := by
  rw [Poly.feed, dif_neg h]

/-- The stream of the buffered bytes and the segment: its complete blocks are absorbed in order, the rest is buffered. By
induction on the segment: a byte moves from the segment to the buffer, or completes the first block of the stream. -/
theorem Poly.foldl_feed_stream {p : Poly} {seg B : List Byte} (hB : p.tailBytes ++ seg = B) {n : Nat} (hn : B.length ≤ n) :
    (seg.foldl Poly.feed p).tailBytes = B.drop (completeLength B) ∧
    (seg.foldl Poly.feed p).pacc = referenceAcc p.pr.toNat p.pacc (chunksOf n (B.take (completeLength B))) := by
  induction seg generalizing p B n with
  | nil =>
    rw [List.append_nil] at hB
    subst hB
    rw [completeLength_of_lt (p.length_tailBytes ▸ p.ptlen.isLt), List.take_zero, chunksOf_nil]
    exact ⟨rfl, rfl⟩
  | cons x xs ih =>
    have hB' : (p.tailBytes ++ [x]) ++ xs = B := by rw [← hB, List.append_assoc, List.singleton_append]
    rw [List.foldl_cons]
    by_cases h : p.ptlen.val = 15
    · have hc : (p.tailBytes ++ [x]).length = 16 := by simp [h]
      subst hB'
      rw [List.length_append, hc] at hn
      obtain ⟨m, rfl⟩ : ∃ m, n = m + 1 := ⟨n - 1, by omega⟩
      rw [completeLength_append hc, List.drop_length_add_append, List.take_length_add_append, chunksOf_succ_append hc,
        Poly.feed_of_full h]
      exact ih (by rw [Poly.tailBytes_of_ptlen_zero rfl, List.nil_append]) (by omega)
    · obtain ⟨htail, hacc⟩ := ih (p := p.feed x) (by rw [Poly.tailBytes_feed_of_not_full h, hB']) hn
      rw [Poly.feed_pr, Poly.feed_pacc_of_not_full h] at hacc
      exact ⟨htail, hacc⟩

/-! ### A whole segment (R703). -/

theorem Poly.update_stream {p : Poly} {seg B : List Byte} (hB : p.tailBytes ++ seg = B) :
    (p.update seg).tailBytes = B.drop (completeLength B) ∧
    (p.update seg).pacc = referenceAcc p.pr.toNat p.pacc (chunksOf B.length (B.take (completeLength B))) :=
  Poly.foldl_feed_stream (p := { p with pupd := p.pupd || !seg.isEmpty }) hB le_rfl

/-- Settles O13: what PTAIL holds gives PTLEN. -/
theorem updateAbsorbsCompleteBlocks : Obligations.UpdateAbsorbsCompleteBlocks := by
  intro p seg B q
  obtain ⟨htail, hacc⟩ := Poly.update_stream (p := p) (seg := seg) rfl
  have hlen : (p.update seg).ptlen.val = B.length % 16 := by
    rw [← Poly.length_tailBytes, htail]
    exact length_drop_completeLength B
  exact ⟨htail, hlen, hacc, Poly.update_pr .., Poly.update_ps .., Poly.update_pstate .., Poly.update_pupd ..⟩

/-- No byte of the stream looks at PUPD. -/
theorem Poly.feed_withPupd (p : Poly) (u : Bool) (x : Byte) : { p with pupd := u }.feed x = { p.feed x with pupd := u } := by
  unfold Poly.feed
  split <;> rfl

theorem Poly.foldl_feed_withPupd (p : Poly) (u : Bool) (seg : List Byte) :
    seg.foldl Poly.feed { p with pupd := u } = { seg.foldl Poly.feed p with pupd := u } := by
  induction seg generalizing p with
  | nil => rfl
  | cons x xs ih => rw [List.foldl_cons, Poly.feed_withPupd, ih, List.foldl_cons]

theorem Poly.update_eq (p : Poly) (seg : List Byte) :
    p.update seg = { seg.foldl Poly.feed p with pupd := p.pupd || !seg.isEmpty } := Poly.foldl_feed_withPupd p _ seg

@[simp] theorem Poly.update_nil (p : Poly) : p.update [] = p := by simp [Poly.update]

/-- Two segments in succession are one (R703, R709). -/
theorem Poly.update_update (p : Poly) (a b : List Byte) : (p.update a).update b = p.update (a ++ b) := by
  have hupd : (!(a ++ b).isEmpty) = (!a.isEmpty || !b.isEmpty) := by cases a <;> rfl
  simp only [Poly.update_eq, Poly.foldl_feed_withPupd, List.foldl_append, hupd, Bool.or_assoc]

theorem Poly.foldl_update {α : Type} (f : α → List Byte) (p : Poly) (ds : List α) :
    ds.foldl (fun p d => p.update (f d)) p = p.update (ds.map f).flatten := by
  induction ds generalizing p with
  | nil => exact p.update_nil.symm
  | cons d ds ih => rw [List.foldl_cons, ih, Poly.update_update, List.map_cons, List.flatten_cons]

/-! ### The tag (R705, R707). -/

/-- The flush absorbs the buffered bytes as one more chunk, if there are any (R705). -/
theorem Poly.flush_pacc (p : Poly) : p.flush.pacc = referenceAcc p.pr.toNat p.pacc (chunksOf 1 p.tailBytes) := by
  rw [Poly.flush]
  split
  · next h => rw [Poly.tailBytes_of_ptlen_zero h, chunksOf_nil, referenceAcc_nil]
  · next h =>
    have hlt : p.tailBytes.length < 16 := p.length_tailBytes ▸ p.ptlen.isLt
    have hne : ¬ p.tailBytes.isEmpty = true := by
      rwa [List.isEmpty_iff_length_eq_zero, Poly.length_tailBytes]
    rw [Poly.absorb_pacc, chunksOf_succ_of_lt hlt, if_neg hne]

/-- Streaming into an empty PTAIL and flushing absorbs all chunks of the stream. -/
theorem Poly.flush_update_pacc {p : Poly} (h : p.ptlen.val = 0) (b : List Byte) :
    (p.update b).flush.pacc = referenceAcc p.pr.toNat p.pacc (chunksOf b.length b) := by
  have hB : p.tailBytes ++ b = b := by rw [Poly.tailBytes_of_ptlen_zero h, List.nil_append]
  obtain ⟨htail, hacc⟩ := Poly.update_stream hB
  rw [Poly.flush_pacc, htail, hacc, Poly.update_pr, ← referenceAcc_append, ← chunksOf_eq_complete_append le_rfl]

/-- The halves of a 32-byte key as PR and PS (R702). -/
theorem Poly.load_key {k : List Byte} (h : k.length = 32) :
    (Poly.load k).pr.toNat = unpack (k.take 16) &&& Config.rMask.toNat ∧ (Poly.load k).ps.toNat = unpack (k.drop 16) := by
  have hlow : unpack (k.take 16) < 2 ^ 128 := by simpa [h] using unpack_lt (k.take 16)
  have hhigh : unpack (k.drop 16) < 2 ^ 128 := by simpa [h] using unpack_lt (k.drop 16)
  constructor
  · rw [Poly.load, BitVec.toNat_and, BitVec.toNat_ofNat, Nat.mod_eq_of_lt hlow]
  · rw [Poly.load, BitVec.toNat_ofNat, Nat.mod_eq_of_lt hhigh]

/-- Settles O14: the segments are one stream, which follows the blocks. -/
theorem tagEqualsReference : Obligations.TagEqualsReference := by
  intro k cs ds hk
  obtain ⟨hr, hs⟩ := Poly.load_key hk
  rw [Poly.foldl_update, Poly.foldl_absorb, Poly.tag, Poly.update_ps, Poly.flush_update_pacc rfl, referenceTag,
    referenceAcc_append]
  simp only [hr, hs]
  rfl

end Sys2Proof.Machine
end

section
/-! The completions of the Poly1305 commands (R702-R706): the checks of a command that needs an accumulating P, the four commands,
and two adjacent updates (R709). -/

namespace Sys2Proof.Machine

/-! ### The checks of a command that needs PSTATE ACCUM (R706, R902). -/

/-- With lengths and ranges good, P decides (R903). -/
theorem check_of_inRange {i : Instr} {l : Latch} (p : Poly) (hl : lengthsOk i l = true) (hs : sourcesInRange i l = true)
    (hd : dstInRange i l = true) : check i l p =
      if needsAccum i && p.pstate == .idle then .pNotInit
      else if needsAccum i && p.pstate == .final then .pFinalized
      else if i == .pBlock && p.pupd then .pSequence
      else .ok := by
  simp [check, hl, hs, hd]

/-- The checks in the terms of a statement: `L` says that the lengths are good and, when they are, `R` that the ranges are. -/
theorem exec_checks_accum {i : Instr} (hn : needsAccum i = true) {s : State} {L R : Prop} (hL : lengthsOk i s.lat = true ↔ L)
    (hR : L → (sourcesInRange i s.lat = true ∧ dstInRange i s.lat = true ↔ R)) :
    (L → R → s.poly.pstate = .accum → check i s.lat s.poly = if i == .pBlock && s.poly.pupd then .pSequence else .ok) ∧
    (¬ L → exec i s = .next (s.failed .invalidLength)) ∧
    (L → ¬ R → exec i s = .next (s.failed .badRange)) ∧
    (L → R → s.poly.pstate = .idle → exec i s = .next (s.failed .pNotInit)) ∧
    (L → R → s.poly.pstate = .final → exec i s = .next (s.failed .pFinalized)) := by
  have hcheck : L → R → check i s.lat s.poly =
      if s.poly.pstate == .idle then .pNotInit
      else if s.poly.pstate == .final then .pFinalized
      else if i == .pBlock && s.poly.pupd then .pSequence
      else .ok := fun l r => by
    obtain ⟨hs, hd⟩ := (hR l).2 r
    simp only [check_of_inRange s.poly (hL.2 l) hs hd, hn, Bool.true_and]
  refine ⟨fun l r hp => ?_, fun l => exec_of_bad_length (mt hL.1 l), fun l r => exec_of_bad_range (hL.2 l) (mt (hR l).1 r),
    fun l r hp => exec_of_check_eq ?_ (by decide), fun l r hp => exec_of_check_eq ?_ (by decide)⟩ <;>
    rw [hcheck l r, hp] <;> rfl

/-! ### The four commands. -/

/-- Settles O27. -/
theorem pInitCompletes : Obligations.PInitCompletes := by
  refine ⟨by decide, fun s => ?_⟩
  have hL : lengthsOk .pInit s.lat = true ↔ s.srcLen 0 = 32 := by simp [lengthsOk_eq, usedSources, Contract.holds]
  have hR : s.srcLen 0 = 32 →
      (sourcesInRange .pInit s.lat = true ∧ dstInRange .pInit s.lat = true ↔ InBuf (s.srcAddr 0) 32) := fun h => by
    simp [sourcesInRange_eq, dstInRange_eq, usedSources, outlen, h]
  have hop : operationOf s.pDh .pInit (inputsOf .pInit s) = .ok ((inputsOf .pInit s).setPoly (Poly.load (s.srcBytes 0))) := by
    rw [operationOf, opPInit, inputsOf_src0 rfl]
  obtain ⟨hcheck, hlen, hrange⟩ := exec_checks rfl hL hR
  exact ⟨fun h r => exec_of_success (hcheck h r) hop, hlen, hrange⟩

/-- Settles O28: any length is allowed. -/
theorem pUpdateCompletes : Obligations.PUpdateCompletes := by
  refine ⟨by decide, by decide, fun s pad => ?_⟩
  have hL : lengthsOk (.pUpdate pad) s.lat = true ↔ True := by simp [lengthsOk_eq, usedSources, Contract.holds]
  have hR : True → (sourcesInRange (.pUpdate pad) s.lat = true ∧ dstInRange (.pUpdate pad) s.lat = true ↔
      InBuf (s.srcAddr 0) (s.srcLen 0)) := fun _ => by
    simp [sourcesInRange_eq, dstInRange_eq, usedSources, outlen]
  have hop : operationOf s.pDh (.pUpdate pad) (inputsOf (.pUpdate pad) s) =
      .ok ((inputsOf (.pUpdate pad) s).setPoly (s.poly.update
        (s.srcBytes 0 ++ if pad then List.replicate ((16 - s.srcLen 0 % 16) % 16) 0x00#8 else []))) := by
    rw [operationOf, opPUpdate, inputsOf_src0 rfl, inputsOf_poly, paddedSegment, length_srcBytes]
  obtain ⟨hcheck, -, hrange, hidle, hfinal⟩ := exec_checks_accum rfl hL hR
  exact ⟨fun r hp => exec_of_success (hcheck trivial r hp) hop, hrange trivial, hidle trivial, hfinal trivial⟩

/-- Settles O29: in ACCUM, PUPD decides. -/
theorem pBlockCompletes : Obligations.PBlockCompletes := by
  refine ⟨by decide, fun s => ?_⟩
  have hL : lengthsOk .pBlock s.lat = true ↔ s.srcLen 0 ≤ 16 := by simp [lengthsOk_eq, usedSources, Contract.holds]
  have hR : s.srcLen 0 ≤ 16 → (sourcesInRange .pBlock s.lat = true ∧ dstInRange .pBlock s.lat = true ↔
      InBuf (s.srcAddr 0) (s.srcLen 0)) := fun _ => by
    simp [sourcesInRange_eq, dstInRange_eq, usedSources, outlen]
  have hop : operationOf s.pDh .pBlock (inputsOf .pBlock s) = .ok ((inputsOf .pBlock s).setPoly { s.poly with
      pacc := (s.poly.pacc + (unpack (s.srcBytes 0) + 2 ^ (8 * s.srcLen 0))) * s.poly.pr.toNat % (2 ^ 130 - 5) }) := by
    rw [operationOf, opPBlock, inputsOf_src0 rfl, inputsOf_poly, Poly.absorb, chunkNumber, length_srcBytes]
  obtain ⟨hcheck, hlen, hrange, hidle, hfinal⟩ := exec_checks_accum rfl hL hR
  refine ⟨fun h r hp hu => exec_of_success ?_ hop, fun h => hlen (Nat.not_le.2 h), hrange, fun h r => ⟨hidle h r, hfinal h r,
    fun hp hu => exec_of_check_eq ?_ (by decide)⟩⟩ <;>
    rw [hcheck h r hp, hu] <;> rfl

/-- The flush with the test on PTLEN the other way round and the buffered bytes written out (R705). -/
theorem Poly.flush_eq (p : Poly) : p.flush = if 0 < p.ptlen.val then p.absorb (p.ptail.toList.take p.ptlen) else p := by
  simp only [Poly.flush, Nat.pos_iff_ne_zero, ite_not]
  rfl

/-- Settles O30: P_TAG has no source, so only the range of its result is checked before P. -/
theorem pTagCompletes : Obligations.PTagCompletes := by
  refine ⟨by decide, fun s => ?_⟩
  have hR : True → (sourcesInRange .pTag s.lat = true ∧ dstInRange .pTag s.lat = true ↔ InBuf s.dstAt 16) := fun _ => by
    simp [sourcesInRange_eq, dstInRange_eq, usedSources, outlen]
  have hop : operationOf s.pDh .pTag (inputsOf .pTag s) = .ok ⟨pack 16 s.poly.tag, Poly.zero .final⟩ := rfl
  obtain ⟨hcheck, -, hrange, hidle, hfinal⟩ := exec_checks_accum (i := .pTag) rfl (iff_true_intro rfl) hR
  rw [← Poly.flush_eq]
  exact ⟨fun r hp => exec_of_success (eff := ⟨_, _⟩) (hcheck trivial r hp) hop, hrange trivial, hidle trivial,
    hfinal trivial⟩

/-! ### Two adjacent updates (R709). -/

/-- The state with the latched source 0 at BUF address `a`, `n` bytes long. -/
def State.withSrc0 (s : State) (a n : Nat) : State :=
  { s with lat := { s.lat with src := s.lat.src.set 0 { addr := BitVec.ofNat 12 a, len := BitVec.ofNat 13 n } } }

theorem srcLen_withSrc0 (s : State) {a n : Nat} (h : a + n ≤ 4096) : (s.withSrc0 a n).srcLen 0 = n := by
  have hlen : (s.withSrc0 a n).srcLen 0 = n % 2 ^ 13 := by simp [State.withSrc0, State.srcLen]
  omega

theorem srcAddr_withSrc0 (s : State) (a n : Nat) : (s.withSrc0 a n).srcAddr 0 = a % 2 ^ 12 := by
  simp [State.withSrc0, State.srcAddr]

/-- In range, the source is what BUF holds there; the address 4096 does not fit, but no byte is read from it. -/
theorem srcBytes_withSrc0 (s : State) {a n : Nat} (h : a + n ≤ 4096) :
    (s.withSrc0 a n).srcBytes 0 = s.buf.readBytes a n := by
  rw [State.srcBytes, srcLen_withSrc0 s h, srcAddr_withSrc0]
  rcases n.eq_zero_or_pos with rfl | hn
  · rfl
  · rw [Nat.mod_eq_of_lt (by omega)]
    rfl

/-- An unpadded update in range streams what BUF holds there (R703). -/
theorem exec_pUpdate_withSrc0 {s : State} {a n : Nat} (hp : s.poly.pstate = .accum) (h : a + n ≤ 4096) :
    exec (.pUpdate false) (s.withSrc0 a n) =
      .next ((s.withSrc0 a n).succeeded [] (s.poly.update (s.buf.readBytes a n))) := by
  have hrange : InBuf ((s.withSrc0 a n).srcAddr 0) ((s.withSrc0 a n).srcLen 0) := by
    rw [InBuf, srcLen_withSrc0 s h, srcAddr_withSrc0]
    omega
  obtain ⟨-, -, hrun⟩ := pUpdateCompletes
  obtain ⟨hok, -⟩ := hrun (s.withSrc0 a n) false
  rw [hok hrange hp, srcBytes_withSrc0 s h]
  simp only [Bool.false_eq_true, if_false, List.append_nil]
  rfl

/-- Settles O35: the first update stores nothing, so the second finds its bytes where the whole update does. -/
theorem updateChunkIndependence : Obligations.UpdateChunkIndependence := by
  intro s a n m hp h at0
  refine ⟨_, _, _, exec_pUpdate_withSrc0 hp (by omega), exec_pUpdate_withSrc0 ?_ h,
    exec_pUpdate_withSrc0 hp (by omega), ?_, rfl⟩
  · rw [State.succeeded_poly, Poly.update_pstate, hp]
  · simp only [State.succeeded_poly, State.succeeded_buf, Memory.writeBytes_nil]
    rw [Poly.update_update, Memory.readBytes_add]
    rfl

end Sys2Proof.Machine
end

section
/-! The life of a command: the CMD write that issues it or does not (R801, R803, R208), what leaves it undisturbed in flight
(R807), and its completion (R802-R805, R808, R904). -/

namespace Sys2Proof.Machine

/-! ### The CMD write. -/

/-- A write to CMD as a step (R208). -/
theorem step_writeCmd (v : Word) (strb : BitVec 4) (s : State) (rest : List Turn) :
    step { s with turns := .write 0x00C#13 v strb :: rest } = .next (writeCmd v strb { s with turns := rest }) := by
  rw [step_write, hostWrite_reg (r := .cmd) rfl, regWrite]

/-- Settles O37: the line falls with DONE. -/
theorem issueLatchesCommand : Obligations.IssueLatchesCommand := by
  intro s v rest hb
  rw [step_writeCmd, writeCmd_idle (s := { s with turns := rest }) hb]
  exact ⟨_, rfl, rfl, Bool.and_false _⟩

/-- Settles O38, by the two ways a CMD write is not an issue. -/
theorem cmdWriteNotIssued : Obligations.CmdWriteNotIssued := by
  refine fun s v rest => ⟨fun hb => ?_, fun strb hs => ?_⟩
  · rw [step_writeCmd, writeCmd_busy (s := { s with turns := rest }) hb]
  · rw [step_writeCmd, writeCmd_partial hs]

/-! ### In flight. -/

/-- Only the engine, power-on and a soft reset touch a command in flight and what it works on (R807, R131). -/
theorem StepEvent.busy_undisturbed {s t : State} (h : StepEvent s t) (hb : s.busy = true) (hm : ¬ EngineMoves s)
    (hp : ¬ PowersOn s) (hr : ¬ SoftResets s) :
    t.buf = s.buf ∧ t.poly = s.poly ∧ t.lat = s.lat ∧ t.busy = true := by
  have hidle : s.busy ≠ false := by simp [hb]
  cases h with
  | idleEngine hb' => exact absurd hb' hidle
  | failed e he => exact absurd he hm
  | succeeded i eff he => exact absurd he hm
  | powerOn init ht => exact absurd ⟨init, ht⟩ hp
  | softReset hr' => exact absurd hr' hr
  | windowWrite o a v strb hb' => exact absurd hb' hidle
  | issue w hi =>
    obtain ⟨hb', -⟩ := hi
    exact absurd hb' hidle
  | _ => exact ⟨rfl, rfl, rfl, hb⟩

/-- A host access is neither the engine's turn nor power-on, so only a soft reset is left to exclude. -/
theorem step_access_busy_undisturbed {s : State} {a : Turn} (rest : List Turn) (hb : s.busy = true) (hengine : a ≠ .engine)
    (hpower : ∀ init, a ≠ .powerOn init) (hr : ¬ SoftResets { s with turns := a :: rest }) :
    ∃ t, step { s with turns := a :: rest } = .next t ∧
      t.buf = s.buf ∧ t.poly = s.poly ∧ t.lat = s.lat ∧ t.busy = true := by
  obtain ⟨t, hstep, -⟩ := step_next { s with turns := a :: rest }
  refine ⟨t, hstep, (stepEvent_of_step hstep).busy_undisturbed hb ?_ ?_ hr⟩
  · rintro ⟨-, hnil | hhead⟩
    · cases hnil
    · exact hengine (Option.some.inj hhead)
  · rintro ⟨init, hhead⟩
    exact hpower init (Option.some.inj hhead)

/-- Settles O50: a read is no soft reset, and a write is one only as the statement excludes. -/
theorem busyCommandUndisturbed : Obligations.BusyCommandUndisturbed := by
  refine fun s rest hb => ⟨fun o => step_access_busy_undisturbed rest hb (by simp) (by simp) ?_,
    fun o v strb hw => step_access_busy_undisturbed rest hb (by simp) (by simp) ?_⟩
  · rintro ⟨_, _, _, hhead, -⟩
    cases hhead
  · rintro ⟨_, _, _, hhead, hk, hsrst⟩
    cases hhead
    exact hw ⟨hk, hsrst⟩

/-! ### The completion. -/

/-- When the engine is to move, the step is its turn (R802). -/
theorem step_of_engineMoves {s : State} (h : EngineMoves s) : step s = engineTurn s.popTurn := by
  obtain ⟨-, hnil | hhead⟩ := h
  · rw [step_eq_takeTurn, hnil]
    rfl
  · rw [step_eq_takeTurn, List.headD_eq_head?_getD, hhead]
    rfl

theorem State.popTurn_of_cons {s : State} {a : Turn} {rest : List Turn} (h : s.turns = a :: rest) :
    s.popTurn = { s with turns := rest } := by
  rw [State.popTurn, h, List.tail_cons]

/-- An illegal word is rejected (R308). -/
theorem exists_decode_error {w : Word} (h : (fieldsOf w).wf = false) : ∃ e, decode w = .error e := by
  cases hd : decode w with
  | error e => exact ⟨e, rfl⟩
  | ok i => exact absurd ((decodeRejectsExactlyIllegal w).1 ⟨i, hd⟩) (by simp [h])

/-- Settles O53, by the engine's turn on a legal and on an illegal word. -/
theorem stepRunsDecodedCommand : Obligations.StepRunsDecodedCommand := by
  refine fun s hb => ⟨fun i hd => ⟨fun rest ht => ?_, fun ht => ?_⟩, fun hwf rest ht => ?_⟩
  · rw [step_of_engineMoves ⟨hb, .inr (by rw [ht]; rfl)⟩, engineTurn_legal (s := s.popTurn) hb hd, State.popTurn_of_cons ht]
  · rw [step_of_engineMoves ⟨hb, .inl ht⟩, engineTurn_legal (s := s.popTurn) hb hd, State.popTurn_of_nil ht]
  · obtain ⟨e, hd⟩ := exists_decode_error hwf
    rw [step_of_engineMoves ⟨hb, .inr (by rw [ht]; rfl)⟩, engineTurn_illegal (s := s.popTurn) hb hd, State.popTurn_of_cons ht]
    rfl

/-- NOP has no source, no result and no operation, so nothing but the common effects is left (R805). -/
theorem exec_nop (s : State) : exec .nop s = .next (s.succeeded [] s.poly) :=
  exec_of_write (check_ok_of_not_needsAccum s.poly rfl rfl rfl rfl) rfl

/-- Settles O15: a legal word is the encoding of its command, and the row of OPC 0x00 is NOP's. -/
theorem nopCompletes : Obligations.NopCompletes := by
  refine ⟨by decide, fun w hopc hne => ?_, exec_nop, fun s hw => ⟨_, exec_nop s, ?_⟩⟩
  · cases hd : decode w with
    | error e => exact ⟨e, rfl⟩
    | ok i =>
      obtain ⟨-, hrow, -⟩ := decode_eq_ok_iff.1 hd
      have hi : i = .nop := by
        rw [show (fieldsOf w).opc = 0x00#8 from hopc] at hrow
        exact (Option.some.inj hrow).symm
      subst hi
      exact absurd (encodeDecodeRoundTrip w .nop hd).symm hne
  · rw [State.succeeded_lastop, hw]
    decide

/-- Settles O33: a completion is a failure, which is the whole of the error's effect, or a success with ERRCODE 0. -/
theorem completionAndPreciseErrors : Obligations.CompletionAndPreciseErrors := by
  intro i s
  obtain ⟨t, hx, -⟩ := exec_next i s
  refine ⟨t, hx, ?_⟩
  rcases exec_inversion hx with ⟨e, rfl⟩ | ⟨eff, -, -, rfl⟩
  · exact ⟨rfl, rfl, rfl, fun _ => rfl⟩
  · exact ⟨rfl, rfl, rfl, fun he => absurd rfl he⟩

/-- Settles O54, by induction on the turns to come: each step takes one, and the step after the last is the engine's. -/
theorem everyCommandCompletes : Obligations.EveryCommandCompletes := by
  intro s
  generalize hts : s.turns = ts
  induction ts generalizing s with
  | nil =>
    obtain ⟨t, hstep, hturns, hidle⟩ := step_next s
    refine ⟨t, run_succ 0 s t hstep, hidle hts, ?_⟩
    rw [hturns, hts, List.tail_nil]
  | cons a rest ih =>
    obtain ⟨u, hstep, hturns, -⟩ := step_next s
    obtain ⟨t, hrun, hend⟩ := ih u (by rw [hturns, hts, List.tail_cons])
    exact ⟨t, (run_succ _ s u hstep).trans hrun, hend⟩

end Sys2Proof.Machine
end

section
/-! No run stops (R900, R214): a step answers a next state from every state. -/

namespace Sys2Proof.Machine

/-- Settles O57, by induction on the number of steps: no step stops. -/
theorem everyRunIsSafe : Obligations.EveryRunIsSafe := by
  intro s k
  induction k generalizing s with
  | zero => exact ⟨s, rfl⟩
  | succ k ih =>
    obtain ⟨u, hstep, -⟩ := step_next s
    obtain ⟨t, hrun⟩ := ih u
    exact ⟨t, (run_succ k s u hstep).trans hrun⟩

end Sys2Proof.Machine
end

section
/-! The order of the error causes (R901, R903): the causes a failed test of `check` stands for, the causes an operation stands for,
and that a command reports the first of them. -/

namespace Sys2Proof.Machine

/-! ### The tests of a command as causes (R901, R902). -/

theorem applies_invalidLength_iff (i : Instr) (s : State) : applies .invalidLength i s ↔ lengthsOk i s.lat = false := by
  rw [lengthsOk_eq, List.all_eq_false]
  simp [applies]

theorem applies_badRange_iff (i : Instr) (s : State) :
    applies .badRange i s ↔ sourcesInRange i s.lat = false ∨ dstInRange i s.lat = false := by
  rw [sourcesInRange_eq, dstInRange_eq, List.all_eq_false]
  simp [applies, Nat.pos_iff_ne_zero]

open Classical in
/-- `check` reports the first of its causes (R902, R903). -/
theorem check_eq_first_cause (i : Instr) (s : State) : check i s.lat s.poly =
    if applies .invalidLength i s then .invalidLength
    else if applies .badRange i s then .badRange
    else if applies .pNotInit i s then .pNotInit
    else if applies .pFinalized i s then .pFinalized
    else if applies .pSequence i s then .pSequence
    else .ok := by
  simp only [applies_invalidLength_iff, applies_badRange_iff]
  cases hl : lengthsOk i s.lat with
  | false => simp [check, hl]
  | true =>
    cases hs : sourcesInRange i s.lat with
    | false => simp [check, hl, hs]
    | true =>
      cases hd : dstInRange i s.lat with
      | false => simp [check, hl, hs, hd]
      | true =>
        rw [check_of_inRange s.poly hl hs hd]
        simp only [applies, Bool.and_eq_true, beq_iff_eq, Bool.true_eq_false, or_self, if_false]
        congr

/-- What an operation with one value check aborts with. -/
theorem ite_error_eq_error_iff {D : Prop} [Decidable D] {c e : ErrCode} {eff : Effect} :
    (if D then .error c else .ok eff : Except ErrCode Effect) = .error e ↔ c = e ∧ D := by
  split_ifs with hD <;> simp [hD]

/-- An operation aborts exactly with the value causes of its command (R515, R517, R605). -/
theorem operationOf_eq_error_iff (i : Instr) (s : State) (e : ErrCode) :
    operationOf s.pDh i (inputsOf i s) = .error e ↔ (e = .zeroScalar ∨ e = .degenerate) ∧ applies e i s := by
  cases i with
  | xLadder =>
    rw [operationOf, opXLadder, inputsOf_src0 rfl, ite_error_eq_error_iff]
    cases e <;> simp [applies]
  | xShared =>
    rw [operationOf, opXShared, inputsOf_src0 rfl, inputsOf_src1 rfl, inputsOf_degen, ite_error_eq_error_iff]
    cases e <;> simp [applies]
  | dhShared =>
    rw [operationOf, opDhShared, inputsOf_src1 rfl, inputsOf_degen, ite_error_eq_error_iff]
    cases e <;> simp [applies, dhDegenerate_iff]
  | _ =>
    refine iff_of_false (fun h => by cases h) ?_
    rintro ⟨rfl | rfl, h⟩ <;> simp [applies] at h

/-! ### No lower cause. -/

theorem ErrCode.code_injective : Function.Injective ErrCode.code := by
  intro e f
  cases e <;> cases f <;> decide

/-- Every cause that applies has at least the code of `e`. -/
def NoCauseBelow (e : ErrCode) (i : Instr) (s : State) : Prop := ∀ e' : ErrCode, applies e' i s → e.code ≤ e'.code

/-- No cause has the code 0 or 1 (R901). -/
theorem noCauseBelow_invalidLength (i : Instr) (s : State) : NoCauseBelow .invalidLength i s := by
  intro e h
  cases e with
  | ok => exact h.elim
  | illegalCmd => exact h.elim
  | _ => decide

/-- A cause that does not apply gives way to the next code. -/
theorem NoCauseBelow.next {e f : ErrCode} {i : Instr} {s : State} (h : NoCauseBelow e i s) (hn : ¬ applies e i s)
    (hf : f.code = e.code + 1) : NoCauseBelow f i s := by
  intro e' h'
  have hle := h e' h'
  have hne : e.code ≠ e'.code := fun heq => hn (ErrCode.code_injective heq ▸ h')
  rw [hf]
  bv_omega

/-- After the last code there is none (R901). -/
theorem NoCauseBelow.no_cause {i : Instr} {s : State} (h : NoCauseBelow .degenerate i s) (hn : ¬ applies .degenerate i s)
    (e : ErrCode) : ¬ applies e i s := by
  intro he
  have hle := h e he
  cases e with
  | degenerate => exact hn he
  | _ => exact absurd hle (by decide)

/-- What `check` answers is a cause with none below it, or leaves only the value causes (R902, R903). -/
theorem check_reports_first (i : Instr) (s : State) :
    (check i s.lat s.poly ≠ .ok → applies (check i s.lat s.poly) i s ∧ NoCauseBelow (check i s.lat s.poly) i s) ∧
    (check i s.lat s.poly = .ok → NoCauseBelow .zeroScalar i s) := by
  have hlength := noCauseBelow_invalidLength i s
  rw [check_eq_first_cause]
  split
  case isTrue h => exact ⟨fun _ => ⟨h, hlength⟩, nofun⟩
  case isFalse h =>
  have hrange : NoCauseBelow .badRange i s := hlength.next h rfl
  split
  case isTrue h => exact ⟨fun _ => ⟨h, hrange⟩, nofun⟩
  case isFalse h =>
  have hinit : NoCauseBelow .pNotInit i s := hrange.next h rfl
  split
  case isTrue h => exact ⟨fun _ => ⟨h, hinit⟩, nofun⟩
  case isFalse h =>
  have hfinal : NoCauseBelow .pFinalized i s := hinit.next h rfl
  split
  case isTrue h => exact ⟨fun _ => ⟨h, hfinal⟩, nofun⟩
  case isFalse h =>
  have hsequence : NoCauseBelow .pSequence i s := hfinal.next h rfl
  split
  case isTrue h => exact ⟨fun _ => ⟨h, hsequence⟩, nofun⟩
  case isFalse h => exact ⟨fun hne => absurd rfl hne, fun _ => hsequence.next h rfl⟩

/-- An operation aborts with a cause that has none below it: it answers only one of the value causes. -/
theorem abort_reports_first {i : Instr} {s : State} {e : ErrCode} (hz : NoCauseBelow .zeroScalar i s)
    (ho : operationOf s.pDh i (inputsOf i s) = .error e) : applies e i s ∧ NoCauseBelow e i s := by
  obtain ⟨rfl | rfl, happ⟩ := (operationOf_eq_error_iff i s e).1 ho
  · exact ⟨happ, hz⟩
  · refine ⟨happ, hz.next (fun hzero => ?_) rfl⟩
    cases ((operationOf_eq_error_iff i s .zeroScalar).2 ⟨.inl rfl, hzero⟩).symm.trans ho

/-- Settles O34, by the three ends of a command: a failed check, an aborted operation, a success. -/
theorem errorPriority : Obligations.ErrorPriority := by
  intro i s t hx
  obtain ⟨hfailed, hpassed⟩ := check_reports_first i s
  rcases exec_cases i s with ⟨hc, h⟩ | ⟨e, hc, ho, h⟩ | ⟨eff, hc, ho, -, h⟩ <;> cases h.symm.trans hx
  · exact ⟨fun _ => hfailed hc, fun hok => absurd hok hc⟩
  · have hfirst := abort_reports_first (hpassed hc) ho
    refine ⟨fun _ => hfirst, ?_⟩
    rintro (rfl : e = .ok)
    exact hfirst.1.elim
  · have hvalue : ∀ e, e = .zeroScalar ∨ e = .degenerate → ¬ applies e i s := fun e he happ => by
      cases ((operationOf_eq_error_iff i s e).2 ⟨he, happ⟩).symm.trans ho
    exact ⟨fun hne => absurd rfl hne,
      fun _ => ((hpassed hc).next (hvalue _ (.inl rfl)) rfl).no_cause (hvalue _ (.inr rfl))⟩

end Sys2Proof.Machine
end

section
/-! The interrupt line (R912, R913): what a completion leaves on it, and which turns write IRQ_EN. -/

namespace Sys2Proof.Machine

/-! ### Completions. -/

/-- A completion sets DONE and leaves IRQ_EN (R802). -/
theorem exec_irqEn_done (i : Instr) (s : State) : ∃ t, exec i s = .next t ∧ t.irqEn = s.irqEn ∧ t.done = true := by
  rcases exec_cases i s with ⟨-, h⟩ | ⟨e, -, -, h⟩ | ⟨eff, -, -, -, h⟩ <;> exact ⟨_, h, rfl, rfl⟩

/-- So does the completion of an illegal word (R308). -/
theorem engineTurn_irqEn_done {s : State} (hb : s.busy = true) :
    ∃ t, engineTurn s = .next t ∧ t.irqEn = s.irqEn ∧ t.done = true := by
  cases hd : decode s.lat.word with
  | ok i =>
    rw [engineTurn_legal hb hd]
    exact exec_irqEn_done i s
  | error e => exact ⟨_, engineTurn_illegal hb hd, rfl, rfl⟩

theorem State.irq_of_done {s : State} (h : s.done = true) : s.irq = s.irqEn := by
  rw [State.irq, h, Bool.and_true]

/-- The step that completes the command in flight (R802, R912). -/
theorem step_irq_of_engineMoves {s : State} (h : EngineMoves s) : ∃ t, step s = .next t ∧ t.irq = s.irqEn := by
  obtain ⟨t, hturn, hen, hdone⟩ := engineTurn_irqEn_done (s := s.popTurn) h.1
  exact ⟨t, (step_of_engineMoves h).trans hturn, (State.irq_of_done hdone).trans hen⟩

/-! ### Writes of IRQ_EN. -/

/-- No register write but one to CTRL changes IRQ_EN (R105). -/
theorem regWrite_irqEn {r : Reg} (hr : r ≠ .ctrl) (v : Word) (strb : BitVec 4) (s : State) :
    (regWrite r v strb s).irqEn = s.irqEn := by
  cases r with
  | ctrl => exact absurd rfl hr
  | cmd =>
    simp only [regWrite, writeCmd]
    split_ifs <;> rfl
  | _ => rfl

theorem hostRead_irqEn (o : BitVec 13) (s : State) : (hostRead o s).irqEn = s.irqEn := by
  unfold hostRead
  split
  · rfl
  · rfl
  · split_ifs <;> rfl

theorem engineTurn_irqEn {s t : State} (h : engineTurn s = .next t) : t.irqEn = s.irqEn := by
  cases hb : s.busy with
  | false =>
    cases (engineTurn_idle hb).symm.trans h
    rfl
  | true =>
    obtain ⟨u, hturn, hen, -⟩ := engineTurn_irqEn_done hb
    cases hturn.symm.trans h
    exact hen

/-- The ways a step leaves IRQ_EN: as it was, at the bit a CTRL write brings, or at 0 by a reset (R105, R1001). -/
def IrqEnWritten (s t : State) : Prop :=
  t.irqEn = s.irqEn ∨ HostWrites s 1 (fun v strb => strb.getLsbD 0 = true ∧ v.getLsbD 1 = t.irqEn) ∨
    ((PowersOn s ∨ SoftResets s) ∧ t.irqEn = false)

/-- A host write sets IRQ_EN only through CTRL. -/
theorem irqEnWritten_hostWrite {s : State} {o : BitVec 13} {v : Word} {strb : BitVec 4}
    (ht : s.turns.head? = some (.write o v strb)) : IrqEnWritten s (hostWrite o v strb s.popTurn) := by
  cases ha : busTarget o with
  | reg r =>
    rw [hostWrite_reg ha]
    by_cases hr : r = .ctrl
    · subst hr
      have hk := busTarget_ctrl ha
      by_cases hsrst : strb.getLsbD 3 = true ∧ v.getLsbD 31 = true
      · rw [regWrite, writeCtrl_srst _ hsrst]
        exact .inr (.inr ⟨.inr ⟨o, v, strb, ht, hk, hsrst⟩, rfl⟩)
      · rw [regWrite, writeCtrl_eq _ hsrst]
        cases h0 : strb.getLsbD 0 with
        | true => exact .inr (.inl ⟨o, v, strb, ht, hk, h0, rfl⟩)
        | false => exact .inl rfl
    · exact .inl (regWrite_irqEn hr v strb s.popTurn)
  | reserved =>
    rw [hostWrite_reserved ha]
    exact .inl rfl
  | window a =>
    rw [hostWrite, ha]
    refine .inl ?_
    dsimp only
    split_ifs <;> rfl

theorem irqEnWritten_of_step {s t : State} (h : step s = .next t) : IrqEnWritten s t := by
  rw [step_eq_takeTurn] at h
  cases hm : s.turns.headD .engine with
  | engine =>
    rw [hm] at h
    exact .inl (engineTurn_irqEn (s := s.popTurn) h)
  | read o =>
    rw [hm] at h
    cases h
    exact .inl (hostRead_irqEn o s.popTurn)
  | write o v strb =>
    rw [hm] at h
    cases h
    exact irqEnWritten_hostWrite (head?_of_headD hm (by simp))
  | powerOn init =>
    rw [hm] at h
    cases h
    exact .inr (.inr ⟨.inl ⟨init, head?_of_headD hm (by simp)⟩, rfl⟩)

/-! ### Rise and fall of the line. -/

theorem State.irq_eq_true_iff (s : State) : s.irq = true ↔ s.irqEn = true ∧ s.done = true := Bool.and_eq_true_iff

/-- The line rises with DONE, which only a completion sets, or with IRQ_EN, which only a CTRL write sets (R912). -/
theorem irq_rises {s t : State} (h : step s = .next t) (hs : s.irq = false) (ht : t.irq = true) :
    (EngineMoves s ∧ s.irqEn = true) ∨
      (s.done = true ∧ HostWrites s 1 fun v strb => strb.getLsbD 0 = true ∧ v.getLsbD 1 = true) := by
  obtain ⟨hten, htdone⟩ := t.irq_eq_true_iff.1 ht
  cases hdone : s.done with
  | false =>
    have he := (stepEvent_of_step h).done_rises hdone htdone
    obtain ⟨u, hu, hirq⟩ := step_irq_of_engineMoves he
    cases hu.symm.trans h
    exact .inl ⟨he, hirq.symm.trans ht⟩
  | true =>
    rcases irqEnWritten_of_step h with hkept | hctrl | ⟨-, hreset⟩
    · have hsirq := s.irq_eq_true_iff.2 ⟨hkept.symm.trans hten, hdone⟩
      exact absurd (hs.symm.trans hsirq) Bool.false_ne_true
    · rw [hten] at hctrl
      exact .inr ⟨rfl, hctrl⟩
    · exact absurd (hreset.symm.trans hten) Bool.false_ne_true

/-- The line falls with DONE or with IRQ_EN (R913). -/
theorem irq_falls {s t : State} (h : step s = .next t) (hs : s.irq = true) (ht : t.irq = false) :
    ClearsStatusBit s 1 ∨ IssuesCommand s ∨ SoftResets s ∨ PowersOn s ∨
      HostWrites s 1 fun v strb => strb.getLsbD 0 = true ∧ v.getLsbD 1 = false := by
  obtain ⟨hen, hdone⟩ := s.irq_eq_true_iff.1 hs
  cases htdone : t.done with
  | false =>
    rcases (stepEvent_of_step h).done_falls hdone htdone with hp | hr | hi | hc
    · exact .inr (.inr (.inr (.inl hp)))
    · exact .inr (.inr (.inl hr))
    · exact .inr (.inl hi)
    · exact .inl hc
  | true =>
    have hten : t.irqEn = false := by
      rwa [State.irq_of_done htdone] at ht
    rcases irqEnWritten_of_step h with hkept | hctrl | ⟨hp | hr, -⟩
    · exact absurd (hten.symm.trans (hkept.trans hen)) Bool.false_ne_true
    · rw [hten] at hctrl
      exact .inr (.inr (.inr (.inr hctrl)))
    · exact .inr (.inr (.inr (.inl hp)))
    · exact .inr (.inr (.inl hr))

/-- A soft reset as a step (R1003). -/
theorem step_softReset {v : Word} {strb : BitVec 4} (h : strb.getLsbD 3 = true ∧ v.getLsbD 31 = true) (s : State)
    (rest : List Turn) :
    step { s with turns := .write 0x004#13 v strb :: rest } = .next (State.softReset { s with turns := rest }) := by
  rw [step_write, hostWrite_reg (r := .ctrl) rfl, regWrite, writeCtrl_srst _ h]

/-- Settles O49: the line after each completion and each access of R913 by the step's equation; its rise and fall by what writes
DONE and IRQ_EN. -/
theorem interruptLine : Obligations.InterruptLine := by
  refine ⟨fun _ => rfl, fun i s => ?_, fun _ => step_irq_of_engineMoves, fun s v strb init rest => ?_,
    fun s t h => ⟨irq_rises h, irq_falls h⟩⟩
  · obtain ⟨t, hx, hen, hdone⟩ := exec_irqEn_done i s
    exact ⟨t, hx, (State.irq_of_done hdone).trans hen⟩
  refine ⟨fun h0 hv => ⟨_, statusWriteClears s v strb rest, ?_⟩, fun hb => ?_,
    fun h0 hv hsrst => ⟨_, ctrlWrite s v strb rest hsrst, ?_, rfl⟩,
    fun h0 hv hsrst => ⟨_, ctrlWrite s v strb rest hsrst, ?_⟩,
    fun h3 hv => ⟨_, step_softReset ⟨h3, hv⟩ s rest, rfl⟩, ⟨_, rfl, rfl⟩⟩
  · simp [State.irq, h0, hv]
  · obtain ⟨t, hstep, -, hirq⟩ := issueLatchesCommand s v rest hb
    exact ⟨t, hstep, hirq⟩
  · simp only [State.irq, h0, hv, if_true, Bool.false_and]
  · simp only [State.irq, h0, hv, if_true, Bool.true_and]

end Sys2Proof.Machine
end

section
/-! What a soft reset and a power-on turn leave in the registers, in P and in BUF (R1000-R1004). -/

namespace Sys2Proof.Machine

/-! ### Soft reset. -/

theorem abortLength_of_decode {w : Word} {i : Instr} (h : decode w = .ok i) : abortLength w = outlen i := by
  rw [abortLength, h]

/-- An illegal word in flight frees no byte (assumption log 19). -/
theorem abortLength_of_decode_error {w : Word} {e : DecodeError} (h : decode w = .error e) : abortLength w = 0 := by
  rw [abortLength, h]

/-- A soft reset leaves every byte outside the destination of the command it aborts (R1003, R1004). -/
theorem read_softReset_buf {s : State} {a : Nat} (hbuf : s.buf.wf = true)
    (hout : ∀ i : Instr, s.busy = true → decode s.lat.word = .ok i →
      a < s.lat.dst.toNat ∨ s.lat.dst.toNat + outlen i ≤ a) :
    s.softReset.buf.read a = s.buf.read a := by
  rw [State.softReset_buf]
  cases hb : s.busy with
  | false => rfl
  | true =>
    rw [if_pos rfl]
    cases hd : decode s.lat.word with
    | error e =>
      rw [abortLength_of_decode_error hd]
      rfl
    | ok i =>
      obtain ⟨hsorted, -⟩ := (Memory.wf_iff s.buf).1 hbuf
      rw [abortLength_of_decode hd]
      exact read_scrambleBytes_outside hsorted _ _ (Nat.zero_le _) (hout i hb hd)

/-- Settles O47: the step is the soft reset; its registers and P by their values, BUF by the frame of the freed bytes. -/
theorem softResetClears : Obligations.SoftResetClears := by
  intro s v strb rest hbuf hstrb hsrst
  refine ⟨_, step_softReset ⟨hstrb, hsrst⟩ s rest, rfl, rfl, (State.statusWord_eq _).trans rfl, rfl,
    fun k => ?_, rfl, rfl, rfl, fun a hout => read_softReset_buf (s := { s with turns := rest }) hbuf hout⟩
  simp only [State.softReset_src, Fin.getElem_fin, Vector.getElem_replicate]
  exact ⟨rfl, rfl⟩

/-! ### Power-on. -/

/-- The power-on column of R1001 as the host reads it, and P. -/
def State.ReadsPowerOnValues (t : State) : Prop :=
  regRead .id t = 0x45524301#32 ∧ regRead .ctrl t = 0x00000000#32 ∧ regRead .status t = 0x00000000#32 ∧
  regRead .cmd t = 0x00000000#32 ∧
  (∀ k : Fin 3, regRead (.srcAddr k) t = 0x00000000#32 ∧ regRead (.srcLen k) t = 0x00000000#32) ∧
  regRead .dstAddr t = 0x00000000#32 ∧ t.irq = false ∧ t.poly = Poly.zero .idle

/-- The machine right after power-on reads so, whatever turns are to come and free bytes were drawn. -/
theorem readsPowerOnValues_powerOn (pDh : Nat) (init : List Byte) (ts : List Turn) (n : Nat) :
    State.ReadsPowerOnValues { State.powerOn pDh init with turns := ts, freeCount := n } := by
  refine ⟨rfl, (State.ctrlWord_eq _).trans rfl, (State.statusWord_eq _).trans rfl, rfl, fun k => ?_, rfl, rfl, rfl⟩
  simp only [regRead, State.powerOn_src, Fin.getElem_fin, Vector.getElem_replicate]
  exact ⟨rfl, rfl⟩

/-- BUF after power-on holds the bytes that arrive (R1002). -/
theorem Memory.read_ofBytes {v : List Byte} {a : Nat} (ha : a < Config.bufSize) (hv : a < v.length) :
    (Memory.ofBytes v).read a = v.getD a 0x00#8 := by
  have hfit : 0 + (v.take Config.bufSize).length ≤ Config.bufSize := by simp only [List.length_take]; omega
  have hin : 0 ≤ a ∧ a < 0 + (v.take Config.bufSize).length := by simp only [List.length_take]; omega
  rw [Memory.ofBytes, Memory.read_writeBytes Memory.wf_nil hfit, if_pos hin, Nat.sub_zero]
  simp only [List.getD_eq_getElem?_getD, List.getElem?_take_of_lt ha]

/-- Settles O48: both states are the power-on state up to the model's own fields. -/
theorem powerOnValues : Obligations.PowerOnValues :=
  ⟨readsPowerOnValues_powerOn Config.pDh [] [] 0, rfl, fun s init rest =>
    ⟨_, rfl, readsPowerOnValues_powerOn s.pDh init rest s.freeCount, rfl, fun _ => Memory.read_ofBytes⟩⟩

end Sys2Proof.Machine
end
